-- ==== Sys2Proof/Word.lean ====
section
/-! DEFINITION. The widths of the values the core moves (00_scope.md R7, R9). -/

namespace Sys2Proof

/-- A stream byte, and the `ARG` and `OP` fields of a command word (30_encoding.md R80). -/
abbrev Byte := BitVec 8

/-- A 32-bit register of the window, and a command word (20_memory.md R60, 30_encoding.md R80). -/
abbrev Word := BitVec 32

/-- A 64-bit block or key (00_scope.md R7, R11). -/
abbrev Block := BitVec 64

/-- A 48-bit round subkey (00_scope.md R7). -/
abbrev Subkey := BitVec 48

/-- The sixteen subkeys of a session; index `i` holds `KS[i + 1]` (10_state.md R40). -/
abbrev Subkeys := Vector Subkey 16

/-- A 28-bit half of the key schedule (10_state.md R41). -/
abbrev KeyHalf := BitVec 28

/-- A 32-bit half of the Feistel network (10_state.md R42). -/
abbrev Half := BitVec 32

end Sys2Proof
end

