-- ==== Sys2Proof/Machine/Permutation.lean ====
section
/-! DEFINITION. The permutation engine (40_permutation_engine.md): the `Permute` function and its six fixed
tables. TESTED: the spec records the table values as checked against OpenSSL (log 19). -/

namespace Sys2Proof.Machine

/-- A permutation table from `w` bits to `o` bits, with the design-time check of 40_permutation_engine.md R101:
`o` entries, each an input position in `1..w`. -/
structure Table (w o : Nat) where
  entries : List Nat
  length_eq : entries.length = o
  inRange : ∀ p ∈ entries, 1 ≤ p ∧ p ≤ w

/-- `pos_W(v, p)`: position `p`, 1-based from the most significant bit, is bit `v[W - p]` (00_scope.md R9). -/
def pos {w : Nat} (v : BitVec w) (p : Nat) : Bool := v.getLsbD (w - p)

/-- `Permute(T, W, x)`: output position `i` equals input position `T[i]`, both counted from the most significant
bit (40_permutation_engine.md R100). -/
def permute {w o : Nat} (t : Table w o) (x : BitVec w) : BitVec o :=
  (BitVec.ofBoolListBE (t.entries.map (pos x))).cast (by rw [List.length_map, t.length_eq])

/-- Initial permutation IP, 64 to 64. Rule R103 (40_permutation_engine.md). -/
def tableIP : Table 64 64 where
  entries :=
    [58, 50, 42, 34, 26, 18, 10, 2] ++
    [60, 52, 44, 36, 28, 20, 12, 4] ++
    [62, 54, 46, 38, 30, 22, 14, 6] ++
    [64, 56, 48, 40, 32, 24, 16, 8] ++
    [57, 49, 41, 33, 25, 17, 9, 1] ++
    [59, 51, 43, 35, 27, 19, 11, 3] ++
    [61, 53, 45, 37, 29, 21, 13, 5] ++
    [63, 55, 47, 39, 31, 23, 15, 7]
  length_eq := by decide
  inRange := by decide

/-- Final permutation FP, 64 to 64. Rule R104 (40_permutation_engine.md). -/
def tableFP : Table 64 64 where
  entries :=
    [40, 8, 48, 16, 56, 24, 64, 32] ++
    [39, 7, 47, 15, 55, 23, 63, 31] ++
    [38, 6, 46, 14, 54, 22, 62, 30] ++
    [37, 5, 45, 13, 53, 21, 61, 29] ++
    [36, 4, 44, 12, 52, 20, 60, 28] ++
    [35, 3, 43, 11, 51, 19, 59, 27] ++
    [34, 2, 42, 10, 50, 18, 58, 26] ++
    [33, 1, 41, 9, 49, 17, 57, 25]
  length_eq := by decide
  inRange := by decide

/-- Permuted choice 1, 64 to 56: the parity positions 8, 16, ..., 64 appear in no entry. Rule R106 (40_permutation_engine.md). -/
def tablePC1 : Table 64 56 where
  entries :=
    [57, 49, 41, 33, 25, 17, 9] ++
    [1, 58, 50, 42, 34, 26, 18] ++
    [10, 2, 59, 51, 43, 35, 27] ++
    [19, 11, 3, 60, 52, 44, 36] ++
    [63, 55, 47, 39, 31, 23, 15] ++
    [7, 62, 54, 46, 38, 30, 22] ++
    [14, 6, 61, 53, 45, 37, 29] ++
    [21, 13, 5, 28, 20, 12, 4]
  length_eq := by decide
  inRange := by decide

/-- Permuted choice 2, 56 to 48. Rule R107 (40_permutation_engine.md). -/
def tablePC2 : Table 56 48 where
  entries :=
    [14, 17, 11, 24, 1, 5] ++
    [3, 28, 15, 6, 21, 10] ++
    [23, 19, 12, 4, 26, 8] ++
    [16, 7, 27, 20, 13, 2] ++
    [41, 52, 31, 37, 47, 55] ++
    [30, 40, 51, 45, 33, 48] ++
    [44, 49, 39, 56, 34, 53] ++
    [46, 42, 50, 36, 29, 32]
  length_eq := by decide
  inRange := by decide

/-- Expansion E, 32 to 48. Rule R108 (40_permutation_engine.md). -/
def tableE : Table 32 48 where
  entries :=
    [32, 1, 2, 3, 4, 5] ++
    [4, 5, 6, 7, 8, 9] ++
    [8, 9, 10, 11, 12, 13] ++
    [12, 13, 14, 15, 16, 17] ++
    [16, 17, 18, 19, 20, 21] ++
    [20, 21, 22, 23, 24, 25] ++
    [24, 25, 26, 27, 28, 29] ++
    [28, 29, 30, 31, 32, 1]
  length_eq := by decide
  inRange := by decide

/-- Round permutation P, 32 to 32. Rule R109 (40_permutation_engine.md). -/
def tableP : Table 32 32 where
  entries :=
    [16, 7, 20, 21] ++
    [29, 12, 28, 17] ++
    [1, 15, 23, 26] ++
    [5, 18, 31, 10] ++
    [2, 8, 24, 14] ++
    [32, 27, 3, 9] ++
    [19, 13, 30, 6] ++
    [22, 11, 4, 25]
  length_eq := by decide
  inRange := by decide

end Sys2Proof.Machine
end

