-- ==== Sys2Proof/Machine/Feistel.lean ====
section
/-! DEFINITION. The Feistel core (42_feistel_core.md): the S-boxes, the round function and the block
transforms. TESTED: the spec records the S-box values as checked against OpenSSL (log 19). -/

namespace Sys2Proof.Machine

/-- An S-box in the row and column layout of 42_feistel_core.md R141 to R148. -/
abbrev SBox := Vector (Vector (BitVec 4) 16) 4

/-- `Sj(v) = SBOX_j[row][column]` with row `v[5] ‖ v[0]` and column `v[4:1]` (42_feistel_core.md R140). -/
def SBox.lookup (box : SBox) (v : BitVec 6) : BitVec 4 :=
  let row : BitVec 2 := v.extractLsb' 5 1 ++ v.extractLsb' 0 1
  let col : BitVec 4 := v.extractLsb' 1 4
  box[row.toNat][col.toNat]

/-- S-box S1, rule R141, row by row. -/
def sbox1 : SBox :=
  #v[#v[14, 4, 13, 1, 2, 15, 11, 8, 3, 10, 6, 12, 5, 9, 0, 7],
    #v[0, 15, 7, 4, 14, 2, 13, 1, 10, 6, 12, 11, 9, 5, 3, 8],
    #v[4, 1, 14, 8, 13, 6, 2, 11, 15, 12, 9, 7, 3, 10, 5, 0],
    #v[15, 12, 8, 2, 4, 9, 1, 7, 5, 11, 3, 14, 10, 0, 6, 13]]

/-- S-box S2, rule R142, row by row. -/
def sbox2 : SBox :=
  #v[#v[15, 1, 8, 14, 6, 11, 3, 4, 9, 7, 2, 13, 12, 0, 5, 10],
    #v[3, 13, 4, 7, 15, 2, 8, 14, 12, 0, 1, 10, 6, 9, 11, 5],
    #v[0, 14, 7, 11, 10, 4, 13, 1, 5, 8, 12, 6, 9, 3, 2, 15],
    #v[13, 8, 10, 1, 3, 15, 4, 2, 11, 6, 7, 12, 0, 5, 14, 9]]

/-- S-box S3, rule R143, row by row. -/
def sbox3 : SBox :=
  #v[#v[10, 0, 9, 14, 6, 3, 15, 5, 1, 13, 12, 7, 11, 4, 2, 8],
    #v[13, 7, 0, 9, 3, 4, 6, 10, 2, 8, 5, 14, 12, 11, 15, 1],
    #v[13, 6, 4, 9, 8, 15, 3, 0, 11, 1, 2, 12, 5, 10, 14, 7],
    #v[1, 10, 13, 0, 6, 9, 8, 7, 4, 15, 14, 3, 11, 5, 2, 12]]

/-- S-box S4, rule R144, row by row. -/
def sbox4 : SBox :=
  #v[#v[7, 13, 14, 3, 0, 6, 9, 10, 1, 2, 8, 5, 11, 12, 4, 15],
    #v[13, 8, 11, 5, 6, 15, 0, 3, 4, 7, 2, 12, 1, 10, 14, 9],
    #v[10, 6, 9, 0, 12, 11, 7, 13, 15, 1, 3, 14, 5, 2, 8, 4],
    #v[3, 15, 0, 6, 10, 1, 13, 8, 9, 4, 5, 11, 12, 7, 2, 14]]

/-- S-box S5, rule R145, row by row. -/
def sbox5 : SBox :=
  #v[#v[2, 12, 4, 1, 7, 10, 11, 6, 8, 5, 3, 15, 13, 0, 14, 9],
    #v[14, 11, 2, 12, 4, 7, 13, 1, 5, 0, 15, 10, 3, 9, 8, 6],
    #v[4, 2, 1, 11, 10, 13, 7, 8, 15, 9, 12, 5, 6, 3, 0, 14],
    #v[11, 8, 12, 7, 1, 14, 2, 13, 6, 15, 0, 9, 10, 4, 5, 3]]

/-- S-box S6, rule R146, row by row. -/
def sbox6 : SBox :=
  #v[#v[12, 1, 10, 15, 9, 2, 6, 8, 0, 13, 3, 4, 14, 7, 5, 11],
    #v[10, 15, 4, 2, 7, 12, 9, 5, 6, 1, 13, 14, 0, 11, 3, 8],
    #v[9, 14, 15, 5, 2, 8, 12, 3, 7, 0, 4, 10, 1, 13, 11, 6],
    #v[4, 3, 2, 12, 9, 5, 15, 10, 11, 14, 1, 7, 6, 0, 8, 13]]

/-- S-box S7, rule R147, row by row. -/
def sbox7 : SBox :=
  #v[#v[4, 11, 2, 14, 15, 0, 8, 13, 3, 12, 9, 7, 5, 10, 6, 1],
    #v[13, 0, 11, 7, 4, 9, 1, 10, 14, 3, 5, 12, 2, 15, 8, 6],
    #v[1, 4, 11, 13, 12, 3, 7, 14, 10, 15, 6, 8, 0, 5, 9, 2],
    #v[6, 11, 13, 8, 1, 4, 10, 7, 9, 5, 0, 15, 14, 2, 3, 12]]

/-- S-box S8, rule R148, row by row. -/
def sbox8 : SBox :=
  #v[#v[13, 2, 8, 4, 6, 15, 11, 1, 10, 9, 3, 14, 5, 0, 12, 7],
    #v[1, 15, 13, 8, 10, 3, 7, 4, 12, 5, 6, 11, 0, 14, 9, 2],
    #v[7, 11, 4, 1, 9, 12, 14, 2, 0, 6, 10, 13, 15, 3, 5, 8],
    #v[2, 1, 14, 7, 4, 10, 8, 13, 15, 12, 9, 0, 3, 5, 6, 11]]

/-- The substitution layer: eight 6-bit groups, group 1 the most significant, each through its box, nibble 1 the
most significant (42_feistel_core.md R149). -/
def substitute (x : BitVec 48) : BitVec 32 :=
  sbox1.lookup (x.extractLsb' 42 6) ++ sbox2.lookup (x.extractLsb' 36 6) ++
  sbox3.lookup (x.extractLsb' 30 6) ++ sbox4.lookup (x.extractLsb' 24 6) ++
  sbox5.lookup (x.extractLsb' 18 6) ++ sbox6.lookup (x.extractLsb' 12 6) ++
  sbox7.lookup (x.extractLsb' 6 6) ++ sbox8.lookup (x.extractLsb' 0 6)

/-- The round function `F(R, K)` (42_feistel_core.md R149). -/
def roundF (r : Half) (k : Subkey) : Half := permute tableP (substitute (permute tableE r ^^^ k))

/-- One round, `(L, R) <- (R, L XOR F(R, K))` (42_feistel_core.md R150). -/
def feistelRound (lr : Half × Half) (k : Subkey) : Half × Half := (lr.2, lr.1 ^^^ roundF lr.2 k)

/-- `L` and `R` after the initial permutation (42_feistel_core.md R150, R155). -/
def splitIP (x : Block) : Half × Half :=
  let t := permute tableIP x
  (t.extractLsb' 32 32, t.extractLsb' 0 32)

/-- The final permutation of `R ‖ L` (42_feistel_core.md R150, R155). -/
def joinFP (lr : Half × Half) : Block := permute tableFP (lr.2 ++ lr.1)

/-- `Encrypt(KS, m)` (42_feistel_core.md R150). -/
def encrypt (ks : Subkeys) (m : Block) : Block := joinFP (ks.toList.foldl feistelRound (splitIP m))

/-- The mirrored round of decryption on the pair `(R, L)`: `(R, L) <- (L, R XOR F(L, K))` (42_feistel_core.md R151). -/
def mirroredRound (rl : Half × Half) (k : Subkey) : Half × Half :=
  let (r, l) := rl
  (l, r ^^^ roundF l k)

/-- `Decrypt(KS, c)`, round 16 first: `R = T[63:32]`, `L = T[31:0]`, and `Permute(FP, 64, L ‖ R)` at the end
(42_feistel_core.md R151). -/
def decrypt (ks : Subkeys) (c : Block) : Block :=
  let t := permute tableIP c
  let (r, l) := ks.toList.reverse.foldl mirroredRound (t.extractLsb' 32 32, t.extractLsb' 0 32)
  permute tableFP (l ++ r)

end Sys2Proof.Machine
end

