-- ==== Sys2Proof/Machine/KeySchedule.lean ====
section
/-! DEFINITION. The key schedule generator (41_key_schedule.md). -/

namespace Sys2Proof.Machine

/-- `SHIFT[i]`, the rotation of round `i` (1 to 16): 1 for rounds 1, 2, 9 and 16, else 2 (41_key_schedule.md R120). -/
def shiftOf (i : Nat) : Nat := if i = 1 ∨ i = 2 ∨ i = 9 ∨ i = 16 then 1 else 2

/-- `rotl_28(v, s) = ((v << s) | (v >> (28 - s)))[27:0]` (00_scope.md R10). -/
def rotl28 (v : KeyHalf) (s : Nat) : KeyHalf := (v <<< s) ||| (v >>> (28 - s))

/-- `C` and `D` straight after PC-1: its output positions 1 to 28 and 29 to 56 (41_key_schedule.md R121). -/
def initialHalves (k : Block) : KeyHalf × KeyHalf :=
  let cd := permute tablePC1 k
  (cd.extractLsb' 28 28, cd.extractLsb' 0 28)

/-- One schedule round: both halves rotated left by `SHIFT[i]` (41_key_schedule.md R120, R121). -/
def rotateHalves (i : Nat) (h : KeyHalf × KeyHalf) : KeyHalf × KeyHalf :=
  (rotl28 h.1 (shiftOf i), rotl28 h.2 (shiftOf i))

/-- `C` and `D` after `n` rounds; the rotations are cumulative (41_key_schedule.md R122). -/
def halvesAfter (k : Block) : Nat → KeyHalf × KeyHalf
  | 0 => initialHalves k
  | n + 1 => rotateHalves (n + 1) (halvesAfter k n)

/-- The subkey of the halves `C` and `D`: `Permute(PC2, 56, C ‖ D)` (41_key_schedule.md R121). -/
def subkeyOf (h : KeyHalf × KeyHalf) : Subkey := permute tablePC2 (h.1 ++ h.2)

/-- `KeySchedule(K)`, the sixteen subkeys, `KS[1]` at index 0 (41_key_schedule.md R121). -/
def keySchedule (k : Block) : Subkeys := Vector.ofFn fun i => subkeyOf (halvesAfter k (i.val + 1))

end Sys2Proof.Machine
end

