-- ==== Sys2Proof/Config.lean ====
section
/-! DEFINITION. The parameters an implementation fixes (00_scope.md R8) and the free values that an
in-run reset leaves in the hidden registers (10_state.md R50). -/

namespace Sys2Proof

/-- The parameters of 00_scope.md R8 that a rule depends on. A state carries them as data, and no step
changes them, so a statement about every state is a statement about every parameter value (log 1). -/
structure Config where
  /-- `BASE`, the bus address of the register window: OPEN, a multiple of 64 (20_memory.md R60). -/
  base : Nat
  /-- `OUT_DEPTH`, the capacity of the output FIFO: 8 to 255 (10_state.md R46). -/
  outDepth : Nat
  /-- `PAD_STRIP_MAX`, the largest pad value stripped: 7 or 8 (43_stream_framer.md R178). -/
  padStripMax : Nat
  deriving DecidableEq, Repr

namespace Config

/-- The defaults of 00_scope.md R8. DESIGN CHOICE: `BASE` is OPEN and stands at 0 here (log 1, safe:
statements quantify over `base`). -/
def default : Config where
  base := 0
  outDepth := 16
  padStripMax := 7

/-! Free values, one family for each register whose reset value 10_state.md R50 leaves unspecified
("A model may represent every unspecified value as a draw"). They have no body: nothing can be proved of
them. The argument is the number of the reset (log 3). -/

opaque freeKs : Nat → Subkeys
opaque freeC : Nat → KeyHalf
opaque freeD : Nat → KeyHalf
opaque freeL : Nat → Half
opaque freeR : Nat → Half
opaque freeRc : Nat → Fin 17
opaque freeJin : Nat → Block
opaque freeBuf : Nat → Vector Byte 8
opaque freeLa : Nat → Block

end Config

end Sys2Proof
end

