-- ==== Sys2Proof/Machine/Bus.lean ====
section
/-! DEFINITION. What the outside world can do to the core: bus accesses, the reset input, and the order in
which host, engine and platform move (00_scope.md R12, R13; 20_memory.md R61, R62; 30_encoding.md R86, R87). -/

namespace Sys2Proof.Machine

/-- The sixteen registers of the window, in the order of their offsets (10_state.md R20). -/
inductive Reg where
  | cmd | status | keyHi | keyLo | dinHi | dinLo | doutHi | doutLo
  | frOut | frByteCnt | id | config | rsv30 | rsv34 | rsv38 | rsv3C
  deriving DecidableEq, Repr

/-- Widths of a bus access; the core admits only 32 bits (20_memory.md R61). -/
inductive Width where
  | w8 | w16 | w32 | w64
  deriving DecidableEq, Repr

/-- One item of the host's program: a bus read, a bus write, or the loop the pseudo-instructions `WAIT`,
`WAITRDY` and `DRAIN` are (30_encoding.md R86, R87; log 18). -/
inductive HostOp where
  /-- A read of `width` bits at a bus address. -/
  | rd (addr : Nat) (width : Width)
  /-- A write of the low `width` bits of `data` at a bus address. -/
  | wr (addr : Nat) (width : Width) (data : BitVec 64)
  /-- Repeat a 32-bit read until the value read, masked, equals `want`. -/
  | repeatRd (addr : Nat) (mask want : Word)
  deriving DecidableEq, Repr

/-- The pseudo-instructions of 30_encoding.md R87. -/
inductive Pseudo where
  | wait
  | waitRdy
  | setKey (k : Block)
  | enc64 (m : Block)
  | dec64 (c : Block)
  | pushB (b : Byte)
  | drain
  deriving DecidableEq, Repr

/-- A value the bus returned to the host: the address read and the data. -/
structure Reply where
  addr : Nat
  data : Word
  deriving DecidableEq, Repr

/-- Who moves next (00_scope.md R13): the host issues its next bus access, the engine takes its completion
step (44_control.md R213), the engine takes one hidden micro-step (41_key_schedule.md R125, 42_feistel_core.md
R155), or the platform drives the reset input (70_reset_and_hazards.md R250). -/
inductive Turn where
  | host
  | engine
  | micro
  | reset (asserted : Bool)
  deriving DecidableEq, Repr

end Sys2Proof.Machine
end

