-- ==== Sys2Proof/Machine/State.lean ====
section
/-! DEFINITION. The state of the machine as plain data (10_state.md R20 to R50), the reasons a step can stop,
and the state right after reset. -/

namespace Sys2Proof.Machine

/-- `STATUS.FR_MODE` (10_state.md R25). The value 3 is never produced, so it has no constructor. -/
inductive FrMode where
  | idle | enc | dec
  deriving DecidableEq, Repr

/-- The error codes of 60_exceptions.md R220; codes 8 to 15 are never produced, so they have no constructor. -/
inductive ErrCode where
  | none | illegal | busy | nokey | session | overrun | length | io
  deriving DecidableEq, Repr

/-- The job register `JOB` (10_state.md R43). -/
inductive Job where
  | none | keyset | encb | decb | frEnc | frDec | frEncFinal
  deriving DecidableEq, Repr

/-- Why the machine stops with a fault. -/
inductive Fault where
  /-- Raised by a bus access at an address outside the 64-byte window: the core's only address space holds no
  such address (20_memory.md R60; log 9). Safe: the model stops, and nothing is claimed of what another device does. -/
  | outsideWindow
  deriving DecidableEq, Repr

/-- Why the model refuses to give a meaning. -/
inductive Refusal where
  /-- Raised by exec's arm of an instruction that has no meaning yet. Safe. -/
  | notModelled (mnemonic : String)
  /-- Raised by a bus access of 8, 16 or 64 bits: "A model refuses such an access by name" (20_memory.md R61). Safe. -/
  | accessWidth
  /-- Raised by a bus access at an offset that is no multiple of 4 (20_memory.md R61). Safe. -/
  | accessMisaligned
  /-- Raised by a bus access while reset is asserted: "an access during reset is refused"
  (70_reset_and_hazards.md R250). Safe. -/
  | accessDuringReset
  deriving DecidableEq, Repr

/-- The machine's state: the core's registers (10_state.md), the reset input, and the outside world's
pending moves as data. -/
structure State where
  /-- The parameters of 00_scope.md R8. -/
  cfg : Config
  /-- `KEY = KEY_HI ‖ KEY_LO` (10_state.md R31). -/
  key : Block
  /-- `DIN = DIN_HI ‖ DIN_LO` (10_state.md R32). -/
  din : Block
  /-- `DOUT = DOUT_HI ‖ DOUT_LO` (10_state.md R32). -/
  dout : Block
  /-- `STATUS.KEY_VALID` (10_state.md R24). -/
  keyValid : Bool
  /-- `STATUS.FR_MODE` (10_state.md R25). -/
  frMode : FrMode
  /-- `STATUS.FR_DONE` (10_state.md R28). -/
  frDone : Bool
  /-- `STATUS.ERRCODE` (10_state.md R29). -/
  errCode : ErrCode
  /-- `STATUS.ERR_OVF` (10_state.md R29). -/
  errOvf : Bool
  /-- `STATUS.BUF_COUNT`, 0 to 7 (10_state.md R30, R44). -/
  bufCount : Fin 8
  /-- `STATUS.LA_VALID` (10_state.md R30, R45). -/
  laValid : Bool
  /-- `FR_BYTECNT` (10_state.md R35). -/
  frByteCnt : Word
  /-- `OUTQ`, head first (10_state.md R46). -/
  outq : List Byte
  /-- `KS[1..16]` (10_state.md R40). -/
  ks : Subkeys
  /-- Key-schedule half `C` (10_state.md R41). -/
  c : KeyHalf
  /-- Key-schedule half `D` (10_state.md R41). -/
  d : KeyHalf
  /-- Feistel half `L` (10_state.md R42). -/
  l : Half
  /-- Feistel half `R` (10_state.md R42). -/
  r : Half
  /-- Round counter `RC`, 0 to 16 (10_state.md R42). -/
  rc : Fin 17
  /-- `JOB`; `STATUS.BUSY` is its view (10_state.md R43; log 6). -/
  job : Job
  /-- Job input latch `JIN` (10_state.md R43). -/
  jin : Block
  /-- Chunk buffer `BUF[0..7]` (10_state.md R44). -/
  buf : Vector Byte 8
  /-- Lookahead block `LA` (10_state.md R45). -/
  la : Block
  /-- The model's own: micro-step 0 of the pending job has run (log 7). -/
  started : Bool
  /-- The model's own: the subkeys a KEYSET job has produced, not yet `KS` (log 7). -/
  ksNext : Subkeys
  /-- The reset input is asserted (70_reset_and_hazards.md R250). -/
  inReset : Bool
  /-- The model's own: who moves next (00_scope.md R13; log 4). -/
  turns : List Turn
  /-- The model's own: the host's bus operations still to be issued (30_encoding.md R86; log 5). -/
  hostProg : List HostOp
  /-- The model's own: what the bus has returned to the host, oldest first (log 13). -/
  replies : List Reply
  /-- The model's own: the number of in-run resets, at which free values are taken (log 3). -/
  draws : Nat
  deriving DecidableEq, Repr

/-- The state when reset is deasserted (10_state.md R50, 70_reset_and_hazards.md R251). DESIGN CHOICE: the
registers R50 leaves unspecified (`KS`, `C`, `D`, `L`, `R`, `RC`, `JIN`, `BUF`, `LA`) and the model's own fields
hold zero, false or nothing (log 2, unsafe; logs 1, 3, 4, 5, 7, 13). -/
def State.reset : State where
  cfg := Config.default
  key := 0
  din := 0
  dout := 0
  keyValid := false
  frMode := .idle
  frDone := false
  errCode := .none
  errOvf := false
  bufCount := 0
  laValid := false
  frByteCnt := 0
  outq := []
  ks := Vector.replicate 16 0
  c := 0
  d := 0
  l := 0
  r := 0
  rc := 0
  job := .none
  jin := 0
  buf := Vector.replicate 8 0
  la := 0
  started := false
  ksNext := Vector.replicate 16 0
  inReset := false
  turns := []
  hostProg := []
  replies := []
  draws := 0

end Sys2Proof.Machine
end

