-- ==== Sys2Proof/Machine/Flags.lean ====
section
/-! DEFINITION. The fields of `STATUS` and the constants `ID` and `CONFIG` as views of the state
(10_state.md R22 to R30, R33). -/

namespace Sys2Proof.Machine

/-- Whether the job register holds a job (10_state.md R43). -/
def Job.isPending : Job → Bool
  | .none => false
  | .keyset | .encb | .decb | .frEnc | .frDec | .frEncFinal => true

/-- `STATUS.BUSY`: 1 exactly when `JOB ≠ NONE` (10_state.md R43). -/
def State.busy (s : State) : Bool := s.job.isPending

/-- `STATUS.IN_READY`: `OUT_DEPTH - |OUTQ| ≥ 8` (10_state.md R26). -/
def State.inReady (s : State) : Bool := 8 ≤ s.cfg.outDepth - s.outq.length

/-- `STATUS.OUT_AVAIL`: `|OUTQ| > 0` (10_state.md R27). -/
def State.outAvail (s : State) : Bool := 0 < s.outq.length

/-- The two bits of `STATUS.FR_MODE` (10_state.md R22). -/
def FrMode.bits : FrMode → BitVec 2
  | .idle => 0
  | .enc => 1
  | .dec => 2

/-- The four bits of `STATUS.ERRCODE` (60_exceptions.md R220). -/
def ErrCode.bits : ErrCode → BitVec 4
  | .none => 0
  | .illegal => 1
  | .busy => 2
  | .nokey => 3
  | .session => 4
  | .overrun => 5
  | .length => 6
  | .io => 7

/-- The stream-fatal codes, 6 and 7 (60_exceptions.md R220, R223). -/
def ErrCode.isStreamFatal : ErrCode → Bool
  | .length | .io => true
  | .none | .illegal | .busy | .nokey | .session | .overrun => false

/-- `STATUS.ERR`: `ERRCODE ≠ 0` (10_state.md R29). -/
def State.err (s : State) : Bool := s.errCode != .none

/-- The `STATUS` register, bit 31 first (10_state.md R22). -/
def State.statusWord (s : State) : Word :=
  0#4 ++ BitVec.ofBool s.laValid ++ BitVec.ofNat 3 s.bufCount.val ++ BitVec.ofNat 8 s.outq.length ++
  0#3 ++ BitVec.ofBool s.errOvf ++ s.errCode.bits ++ BitVec.ofBool s.err ++ BitVec.ofBool s.frDone ++
  BitVec.ofBool s.outAvail ++ BitVec.ofBool s.inReady ++ s.frMode.bits ++ BitVec.ofBool s.keyValid ++
  BitVec.ofBool s.busy

/-- The `ID` register: "DES1" (10_state.md R33). -/
def idWord : Word := 0x44455331

/-- The `CONFIG` register: `zext_32(PAD8 ‖ OUT_DEPTH[7:0])` (10_state.md R33). -/
def configWord (c : Config) : Word :=
  (BitVec.ofBool (c.padStripMax == 8) ++ BitVec.ofNat 8 c.outDepth).setWidth 32

/-- The index of the block in which the stream stands: `FR_BYTECNT >> 3` (10_state.md R35). -/
def State.blockIndex (s : State) : Word := s.frByteCnt >>> 3

end Sys2Proof.Machine
end

