-- ==== Sys2Proof/Machine/Operands.lean ====
section
/-! DEFINITION. How operands are put together: bytes of a block, halves of 64-bit registers, the framer's
chunk and its padding (00_scope.md R11; 20_memory.md R63, R64; 43_stream_framer.md R173, R176, R178). -/

namespace Sys2Proof.Machine

/-- `byte_k(B) = B[63-8k : 56-8k]`, byte 0 the most significant (00_scope.md R11). -/
def byteOf (b : Block) (k : Nat) : Byte := b.extractLsb' (56 - 8 * k) 8

/-- The eight bytes of a block in stream order (00_scope.md R11, 20_memory.md R63). -/
def blockBytes (b : Block) : List Byte :=
  [byteOf b 0, byteOf b 1, byteOf b 2, byteOf b 3, byteOf b 4, byteOf b 5, byteOf b 6, byteOf b 7]

/-- `Block(b0, ..., b7) = b0 ‖ b1 ‖ ... ‖ b7` (00_scope.md R11). -/
def blockOf (v : Vector Byte 8) : Block :=
  v[0] ++ v[1] ++ v[2] ++ v[3] ++ v[4] ++ v[5] ++ v[6] ++ v[7]

/-- Bits 63:32, the `*_HI` register (20_memory.md R64). -/
def hiWord (b : Block) : Word := b.extractLsb' 32 32

/-- Bits 31:0, the `*_LO` register (20_memory.md R64). -/
def loWord (b : Block) : Word := b.extractLsb' 0 32

/-- A write of the `*_HI` register: bits 63:32 replaced (20_memory.md R62). -/
def setHi (b : Block) (v : Word) : Block := v ++ loWord b

/-- A write of the `*_LO` register: bits 31:0 replaced (20_memory.md R62). -/
def setLo (b : Block) (v : Word) : Block := hiWord b ++ v

/-- The pad value `p = 8 - n` of a final chunk of `n` bytes (43_stream_framer.md R176). -/
def padValue (n : Nat) : Byte := BitVec.ofNat 8 (8 - n)

/-- The final chunk: the `n` bytes held, then `8 - n` bytes of value `8 - n` (43_stream_framer.md R176). -/
def padChunk (buf : Vector Byte 8) (n : Fin 8) : Vector Byte 8 :=
  Vector.ofFn fun j => if j < n then buf[j] else padValue n

/-- `StripLen(B)`: how many leading bytes of the last decrypted block are emitted (43_stream_framer.md R178).
`limit` is `PAD_STRIP_MAX`. -/
def stripLen (limit : Nat) (b : Block) : Nat :=
  let p := (byteOf b 7).toNat
  if 1 ≤ p ∧ p ≤ limit ∧ ((blockBytes b).drop (8 - p)).all (· == byteOf b 7) then 8 - p else 8

end Sys2Proof.Machine
end

