-- ==== Sys2Proof/Machine/Ops.lean ====
section
/-! DEFINITION. The shared operations: recording an error, rejecting a command, ending a stream, accepting a
command, latching and finishing a job, and the output FIFO (44_control.md R210, R213; 60_exceptions.md R221 to
R224; 43_stream_framer.md R180). -/

namespace Sys2Proof.Machine

/-- What one step of this machine answers. -/
abbrev Result := Host.Outcome State Fault Refusal

/-- The code held after `code` is recorded over `old`: the first error is kept, but a stream-fatal code displaces a
rejected-command code (60_exceptions.md R221). -/
def recordedCode (old code : ErrCode) : ErrCode :=
  if old = .none then code
  else if code.isStreamFatal && !old.isStreamFatal then code
  else old

/-- `RecordError(code)`: the code as `recordedCode` says, and `ERR_OVF` set if a code was held already
(60_exceptions.md R221). -/
def recordError (code : ErrCode) (s : State) : State :=
  { s with errCode := recordedCode s.errCode code, errOvf := s.errOvf || s.errCode != .none }

/-- `raise Error(code)` of a rejected command: it has no effect other than `RecordError` (60_exceptions.md R222).
The core has no trap, so nothing is saved and control goes nowhere (R227). -/
def raiseError (code : ErrCode) (s : State) : State := recordError code s

/-- `StreamFatal(code)`: record the code and end the stream, its unread output discarded (60_exceptions.md R223).
There is no return from it: `CLRERR` clears the record, and a new `FR_OPEN_*` starts afresh (R228). -/
def streamFatal (code : ErrCode) (s : State) : State :=
  { recordError code s with
    frMode := .idle
    bufCount := 0
    laValid := false
    outq := []
    frDone := false }

/-- The code of the first check that fires; a check is whether it fires and the code it records
(60_exceptions.md R224). -/
def firstError : List (Bool × ErrCode) → Option ErrCode
  | [] => none
  | (true, code) :: _ => some code
  | (false, _) :: checks => firstError checks

/-- Acceptance of a decoded command: the BUSY check, the command's own checks in order, then its effect, all in
one step (44_control.md R210; log 15). -/
def accept (checks : List (Bool × ErrCode)) (effect : State → State) (s : State) : Result :=
  match firstError ((s.busy, .busy) :: checks) with
  | some code => .next (raiseError code s)
  | none => .next (effect s)

/-- Acceptance of a command that leaves a job: `JIN` latches the operand, and `JOB` makes `BUSY` 1
(44_control.md R210, R214). -/
def latchJob (j : Job) (operand : Block) (s : State) : State :=
  { s with jin := operand, job := j, started := false }

/-- The end of every completion step: `JOB <- NONE; BUSY <- 0` (44_control.md R213). -/
def finishJob (s : State) : State := { s with job := .none, started := false }

/-- `OUTQ.push` of each byte in turn (00_scope.md R12, 10_state.md R46). -/
def pushOut (bytes : List Byte) (s : State) : State := { s with outq := s.outq ++ bytes }

/-- The read of `FR_OUT`: `zext_32(1 ‖ b)` and the head byte removed, or 0 and no change when the FIFO is empty
(43_stream_framer.md R180). -/
def popOut (s : State) : Word × State :=
  match s.outq with
  | [] => (0, s)
  | b :: rest => ((1#1 ++ b).setWidth 32, { s with outq := rest })

end Sys2Proof.Machine
end

