-- ==== Sys2Proof/Machine/Engine.lean ====
section
/-! DEFINITION. The engine: its completion step (44_control.md R213) and the hidden micro-steps of the iterative
datapath (41_key_schedule.md R125, 42_feistel_core.md R155). -/

namespace Sys2Proof.Machine

/-- Which way a block job runs the Feistel datapath (42_feistel_core.md R155). -/
inductive Direction where
  | encrypting | decrypting
  deriving DecidableEq, Repr

/-- The subkeys in the order a direction consumes them: `KS[i]` in round `i` when encrypting, `KS[17 - i]` when
decrypting (42_feistel_core.md R155). -/
def roundKey (dir : Direction) (ks : Subkeys) (i : Fin 16) : Subkey :=
  match dir with
  | .encrypting => ks[i]
  | .decrypting => ks[i.rev]

/-- `L` and `R` after `n` rounds of the datapath on the block `x` (42_feistel_core.md R155). -/
def roundsAfter (dir : Direction) (ks : Subkeys) (x : Block) : Nat → Half × Half
  | 0 => splitIP x
  | n + 1 =>
    if h : n < 16 then feistelRound (roundsAfter dir ks x n) (roundKey dir ks ⟨n, h⟩)
    else roundsAfter dir ks x n

/-- The working registers as the last micro-step of a key schedule leaves them (41_key_schedule.md R125; log 8). -/
def settleSchedule (s : State) : State :=
  { s with
    c := (halvesAfter s.jin 16).1
    d := (halvesAfter s.jin 16).2
    rc := 16
    ksNext := keySchedule s.jin }

/-- The working registers as the last micro-step of a block job leaves them (42_feistel_core.md R155; log 8). -/
def settleRounds (dir : Direction) (s : State) : State :=
  { s with
    l := (roundsAfter dir s.ks s.jin 16).1
    r := (roundsAfter dir s.ks s.jin 16).2
    rc := 16 }

/-- Completion of `J_KEYSET`: all sixteen subkeys written together, `KEY_VALID <- 1` (41_key_schedule.md R124). -/
def completeKeyset (s : State) : State :=
  finishJob { settleSchedule s with ks := keySchedule s.jin, keyValid := true }

/-- Completion of `J_ENCB`: `DOUT <- Encrypt(KS, JIN)` (42_feistel_core.md R153). -/
def completeEncb (s : State) : State :=
  finishJob { settleRounds .encrypting s with dout := encrypt s.ks s.jin }

/-- Completion of `J_DECB`: `DOUT <- Decrypt(KS, JIN)` (42_feistel_core.md R154). -/
def completeDecb (s : State) : State :=
  finishJob { settleRounds .decrypting s with dout := decrypt s.ks s.jin }

/-- Completion of `J_FR_ENC`: the eight ciphertext bytes enter `OUTQ` (43_stream_framer.md R174). -/
def completeFrEnc (s : State) : State :=
  finishJob (pushOut (blockBytes (encrypt s.ks s.jin)) (settleRounds .encrypting s))

/-- Completion of `J_FR_DEC`: the previous block, if any, is emitted, and this one is held back
(43_stream_framer.md R175). -/
def completeFrDec (s : State) : State :=
  finishJob
    { pushOut (if s.laValid then blockBytes s.la else []) (settleRounds .decrypting s) with
      la := decrypt s.ks s.jin
      laValid := true }

/-- Completion of `J_FR_ENC_FINAL`: the last ciphertext block enters `OUTQ` and the stream closes
(43_stream_framer.md R176). -/
def completeFrEncFinal (s : State) : State :=
  finishJob
    { pushOut (blockBytes (encrypt s.ks s.jin)) (settleRounds .encrypting s) with
      frMode := .idle
      frDone := true }

/-- `EngineStep`, enabled exactly when `BUSY = 1`; without a job it does nothing (44_control.md R213). -/
def engineStep (s : State) : State :=
  match s.job with
  | .none => s
  | .keyset => completeKeyset s
  | .encb => completeEncb s
  | .decb => completeDecb s
  | .frEnc => completeFrEnc s
  | .frDec => completeFrDec s
  | .frEncFinal => completeFrEncFinal s

/-- One micro-step of a key schedule: the first loads `C ‖ D` and clears `RC`, each further one is a schedule
round, and after round 16 the job waits for its completion step (41_key_schedule.md R125; log 7). -/
def microSchedule (s : State) : State :=
  if s.started = false then
    { s with c := (initialHalves s.jin).1, d := (initialHalves s.jin).2, rc := 0, started := true }
  else if h : s.rc.val < 16 then
    let cd := rotateHalves (s.rc.val + 1) (s.c, s.d)
    { s with
      c := cd.1
      d := cd.2
      rc := ⟨s.rc.val + 1, by omega⟩
      ksNext := s.ksNext.set s.rc.val (subkeyOf cd) }
  else s

/-- One micro-step of a block job: the first loads `L` and `R` and clears `RC`, each further one is a Feistel
round, and after round 16 the job waits for its completion step (42_feistel_core.md R155; log 7). -/
def microRound (dir : Direction) (s : State) : State :=
  if s.started = false then
    { s with l := (splitIP s.jin).1, r := (splitIP s.jin).2, rc := 0, started := true }
  else if h : s.rc.val < 16 then
    let lr := feistelRound (s.l, s.r) (roundKey dir s.ks ⟨s.rc.val, h⟩)
    { s with l := lr.1, r := lr.2, rc := ⟨s.rc.val + 1, by omega⟩ }
  else s

/-- The engine's micro-step for the pending job (41_key_schedule.md R125, 42_feistel_core.md R155). -/
def microStep (s : State) : State :=
  match s.job with
  | .none => s
  | .keyset => microSchedule s
  | .encb | .frEnc | .frEncFinal => microRound .encrypting s
  | .decb | .frDec => microRound .decrypting s

end Sys2Proof.Machine
end

