-- ==== Sys2Proof/Syntax.lean ====
section
/-! DEFINITION. The commands of the core (30_encoding.md R80, R82): the raw command word by fields, and one
constructor for each row of the opcode table. -/

namespace Sys2Proof

/-- A 32-bit command word by its fields (30_encoding.md R80). -/
structure CmdWord where
  /-- `OP = w[7:0]`. -/
  op : Byte
  /-- `ARG = w[15:8]`. -/
  arg : Byte
  /-- `RSV = w[31:16]`, must be 0. -/
  rsv : BitVec 16
  deriving DecidableEq, Repr

/-- The ten commands (30_encoding.md R82). The only operand is the byte of `FR_PUSH` (R81), so every term is
well-formed by its type. -/
inductive Instr where
  /-- `NOP`, 44_control.md R211. -/
  | nop
  /-- `KEYSET`, 41_key_schedule.md R124. -/
  | keyset
  /-- `ENCB`, 42_feistel_core.md R153. -/
  | encb
  /-- `DECB`, 42_feistel_core.md R154. -/
  | decb
  /-- `CLRERR`, 44_control.md R212. -/
  | clrerr
  /-- `FR_OPEN_ENC`, 43_stream_framer.md R171. -/
  | frOpenEnc
  /-- `FR_OPEN_DEC`, 43_stream_framer.md R172. -/
  | frOpenDec
  /-- `FR_PUSH b`, 43_stream_framer.md R173. -/
  | frPush (b : Byte)
  /-- `FR_FINAL`, 43_stream_framer.md R176 and R177. -/
  | frFinal
  /-- `FR_ABORT`, 43_stream_framer.md R179. -/
  | frAbort
  deriving DecidableEq, Repr

end Sys2Proof
end

