-- ==== Sys2Proof/WellFormed.lean ====
section
/-! DEFINITION. Which raw command words, parameter values and bus accesses are well-formed. Every term of
`Instr` is well-formed by its type (30_encoding.md R81). -/

namespace Sys2Proof

/-- The opcodes of 30_encoding.md R82 that take no `ARG`. -/
def plainOpcodes : List Byte := [0x00, 0x01, 0x02, 0x03, 0x04, 0x10, 0x11, 0x13, 0x14]

/-- The opcode of `FR_PUSH`, the one command with an `ARG` (30_encoding.md R82). -/
def pushOpcode : Byte := 0x12

/-- `RSV` must be 0 (30_encoding.md R80). -/
def CmdWord.rsvZero (c : CmdWord) : Bool := c.rsv == 0

/-- `ARG` must be 0 except for `FR_PUSH` (30_encoding.md R80). -/
def CmdWord.argAllowed (c : CmdWord) : Bool := c.op == pushOpcode || c.arg == 0

/-- The opcode is one of the ten of 30_encoding.md R82. -/
def CmdWord.opDefined (c : CmdWord) : Bool := c.op == pushOpcode || plainOpcodes.contains c.op

/-- A legal command word (30_encoding.md R83). -/
def CmdWord.wf (c : CmdWord) : Bool := c.rsvZero && c.argAllowed && c.opDefined

/-- The ranges of 00_scope.md R8: `BASE` a multiple of 64, `OUT_DEPTH` 8 to 255, `PAD_STRIP_MAX` 7 or 8. -/
def Config.wf (c : Config) : Bool :=
  c.base % 64 == 0 && (8 ≤ c.outDepth && c.outDepth ≤ 255) && (c.padStripMax == 7 || c.padStripMax == 8)

/-- An address of the window (20_memory.md R60). -/
def Config.inWindow (c : Config) (addr : Nat) : Bool := c.base ≤ addr && addr < c.base + 64

/-- A bus access the core admits: 32 bits, at an offset of the window that is a multiple of 4
(20_memory.md R61). -/
def Config.admits (c : Config) (addr : Nat) (width : Machine.Width) : Bool :=
  c.inWindow addr && width == .w32 && (addr - c.base) % 4 == 0

/-- Every access of a host program item is admitted. -/
def Config.admitsOp (c : Config) : Machine.HostOp → Bool
  | .rd addr width => c.admits addr width
  | .wr addr width _ => c.admits addr width
  | .repeatRd addr _ _ => c.admits addr .w32

end Sys2Proof
end

