-- ==== Sys2Proof/Decode.lean ====
section
/-! DEFINITION. The command decoder, total on all 2^32 words (30_encoding.md R83), and the encoder
(30_encoding.md R82). -/

namespace Sys2Proof

/-- Why a command word is `ILLEGAL` (30_encoding.md R83, R84). The core records `ERR_ILLEGAL` for each of
them; the three names only say which line of R83's procedure fired (log 20). -/
inductive Illegal where
  /-- `RSV ≠ 0`. -/
  | reservedField
  /-- `ARG ≠ 0` where the opcode is not `FR_PUSH`. -/
  | argNotZero
  /-- An opcode outside 30_encoding.md R82. -/
  | reservedOpcode
  deriving DecidableEq, Repr

/-- The fields of a command word (30_encoding.md R80). -/
def fieldsOf (w : Word) : CmdWord where
  op := w.extractLsb' 0 8
  arg := w.extractLsb' 8 8
  rsv := w.extractLsb' 16 16

/-- The command word with the given fields (30_encoding.md R80). -/
def wordOf (c : CmdWord) : Word := c.rsv ++ c.arg ++ c.op

/-- The command of an opcode that takes no `ARG` (30_encoding.md R82). -/
def decodePlain (op : Byte) : Except Illegal Instr :=
  if op = 0x00 then .ok .nop
  else if op = 0x01 then .ok .keyset
  else if op = 0x02 then .ok .encb
  else if op = 0x03 then .ok .decb
  else if op = 0x04 then .ok .clrerr
  else if op = 0x10 then .ok .frOpenEnc
  else if op = 0x11 then .ok .frOpenDec
  else if op = 0x13 then .ok .frFinal
  else if op = 0x14 then .ok .frAbort
  else .error .reservedOpcode

/-- `Decode(w)` (30_encoding.md R83), in the order of its lines. -/
def decode (w : Word) : Except Illegal Instr :=
  let c := fieldsOf w
  if c.rsv ≠ 0 then .error .reservedField
  else if c.op = 0x12 then .ok (.frPush c.arg)
  else if c.arg ≠ 0 then .error .argNotZero
  else decodePlain c.op

/-- The fields of a command's word (30_encoding.md R82). -/
def encodeFields : Instr → CmdWord
  | .nop => ⟨0x00, 0, 0⟩
  | .keyset => ⟨0x01, 0, 0⟩
  | .encb => ⟨0x02, 0, 0⟩
  | .decb => ⟨0x03, 0, 0⟩
  | .clrerr => ⟨0x04, 0, 0⟩
  | .frOpenEnc => ⟨0x10, 0, 0⟩
  | .frOpenDec => ⟨0x11, 0, 0⟩
  | .frPush b => ⟨0x12, b, 0⟩
  | .frFinal => ⟨0x13, 0, 0⟩
  | .frAbort => ⟨0x14, 0, 0⟩

/-- The word a host writes to `CMD` to issue the command (30_encoding.md R82). -/
def encode (i : Instr) : Word := wordOf (encodeFields i)

/-- The command the decoder reads from a word numbered as the opcode table numbers it: one 32-bit word, bit 0
the least significant (30_encoding.md R80, R85). Bits at and above `nbits` are 0; a value that does not fit
32 bits is no command word. -/
def decodeTableWord (nbits w : Nat) : Option Instr :=
  let v := w % 2 ^ nbits
  if v < 2 ^ 32 then (decode (BitVec.ofNat 32 v)).toOption else none

end Sys2Proof
end

