-- ==== Sys2Proof/Machine/Cipher.lean ====
section
/-! DEFINITION. Acceptance of `KEYSET`, `ENCB` and `DECB` (41_key_schedule.md R124; 42_feistel_core.md R153,
R154). Their completion is the engine's (Engine.lean). -/

namespace Sys2Proof.Machine

/-- The effect of an accepted `KEYSET`: `JIN <- KEY`, the session ends, and the job is left (41_key_schedule.md R124). -/
def startKeyset (s : State) : State := { latchJob .keyset s.key s with keyValid := false }

/-- `KEYSET`, acceptance: refused while a stream is open (41_key_schedule.md R124). -/
def execKeyset (s : State) : Result := accept [(s.frMode != .idle, .session)] startKeyset s

/-- The effect of an accepted `ENCB`: `JIN <- DIN`, and the job is left (42_feistel_core.md R153). -/
def startEncb (s : State) : State := latchJob .encb s.din s

/-- `ENCB`, acceptance: needs a session (42_feistel_core.md R153). -/
def execEncb (s : State) : Result := accept [(!s.keyValid, .nokey)] startEncb s

/-- The effect of an accepted `DECB`: `JIN <- DIN`, and the job is left (42_feistel_core.md R154). -/
def startDecb (s : State) : State := latchJob .decb s.din s

/-- `DECB`, acceptance: needs a session (42_feistel_core.md R154). -/
def execDecb (s : State) : Result := accept [(!s.keyValid, .nokey)] startDecb s

end Sys2Proof.Machine
end

