-- ==== Sys2Proof/Machine/Control.lean ====
section
/-! DEFINITION. The commands that touch control state only: `NOP` and `CLRERR` (44_control.md R211, R212). -/

namespace Sys2Proof.Machine

/-- `NOP`: no operation (44_control.md R211). -/
def execNop (s : State) : Result := accept [] id s

/-- `ERRCODE <- 0; ERR_OVF <- 0` (44_control.md R212). -/
def clearError (s : State) : State := { s with errCode := .none, errOvf := false }

/-- `CLRERR`: clear the error record (44_control.md R212). -/
def execClrerr (s : State) : Result := accept [] clearError s

end Sys2Proof.Machine
end

