-- ==== Sys2Proof/Machine/Framer.lean ====
section
/-! DEFINITION. Acceptance of the stream framer's commands (43_stream_framer.md R171 to R179). The completion of
its jobs is the engine's (Engine.lean). -/

namespace Sys2Proof.Machine

/-- The checks of `FR_OPEN_ENC` and `FR_OPEN_DEC`: a session, and no stream open (43_stream_framer.md R171). -/
def openChecks (s : State) : List (Bool × ErrCode) :=
  [(!s.keyValid, .nokey), (s.frMode != .idle, .session)]

/-- Opening a stream: `OUTQ` and the error record stay as they are (43_stream_framer.md R171). -/
def openStream (mode : FrMode) (s : State) : State :=
  { s with frMode := mode, bufCount := 0, laValid := false, frDone := false, frByteCnt := 0 }

/-- `FR_OPEN_ENC` (43_stream_framer.md R171). -/
def execFrOpenEnc (s : State) : Result := accept (openChecks s) (openStream .enc) s

/-- `FR_OPEN_DEC` (43_stream_framer.md R172). -/
def execFrOpenDec (s : State) : Result := accept (openChecks s) (openStream .dec) s

/-- The checks of `FR_PUSH` and `FR_FINAL`: a stream open, and room for 8 bytes (43_stream_framer.md R173, R176). -/
def streamChecks (s : State) : List (Bool × ErrCode) :=
  [(s.frMode == .idle, .session), (!s.inReady, .overrun)]

/-- The job a completed chunk leaves: `(FR_MODE = ENC) ? J_FR_ENC : J_FR_DEC` (43_stream_framer.md R173). -/
def FrMode.chunkJob : FrMode → Job
  | .enc => .frEnc
  | .idle | .dec => .frDec

/-- The effect of an accepted push: the byte is stored and counted, and the eighth byte of a chunk leaves a block
job (43_stream_framer.md R173). -/
def pushByte (b : Byte) (s : State) : State :=
  let buf := s.buf.set s.bufCount b
  let s := { s with buf := buf, frByteCnt := s.frByteCnt + 1 }
  if s.bufCount = 7 then latchJob s.frMode.chunkJob (blockOf buf) { s with bufCount := 0 }
  else { s with bufCount := s.bufCount + 1 }

/-- `FR_PUSH b` (43_stream_framer.md R173). -/
def execFrPush (b : Byte) (s : State) : Result := accept (streamChecks s) (pushByte b) s

/-- `FR_FINAL` in ENC mode: the padded chunk leaves the final job (43_stream_framer.md R176). -/
def finalEnc (s : State) : State :=
  let buf := padChunk s.buf s.bufCount
  latchJob .frEncFinal (blockOf buf) { s with buf := buf, bufCount := 0 }

/-- `FR_FINAL` in DEC mode: a length error ends the stream, else the last block is emitted with its padding
stripped, at acceptance (43_stream_framer.md R177). -/
def finalDec (s : State) : State :=
  if s.bufCount ≠ 0 ∨ s.laValid = false then streamFatal .length s
  else
    { pushOut ((blockBytes s.la).take (stripLen s.cfg.padStripMax s.la)) s with
      laValid := false
      frMode := .idle
      frDone := true }

/-- The effect of an accepted `FR_FINAL`, by mode (43_stream_framer.md R176, R177). -/
def finalStream (s : State) : State := if s.frMode = .enc then finalEnc s else finalDec s

/-- `FR_FINAL` (43_stream_framer.md R176, R177). -/
def execFrFinal (s : State) : Result := accept (streamChecks s) finalStream s

/-- The effect of `FR_ABORT`: nothing while idle, else `StreamFatal(ERR_IO)` (43_stream_framer.md R179). -/
def abortStream (s : State) : State := if s.frMode = .idle then s else streamFatal .io s

/-- `FR_ABORT` (43_stream_framer.md R179). -/
def execFrAbort (s : State) : Result := accept [] abortStream s

end Sys2Proof.Machine
end

