-- ==== Sys2Proof/Machine/Dispatch.lean ====
section
/-! DEFINITION. One arm per command: the acceptance of a decoded command (44_control.md R210). -/

namespace Sys2Proof.Machine

def exec (i : Instr) (s : State) : Host.Outcome State Fault Refusal :=
  match i with
  | .nop => Sys2Proof.Machine.execNop s
  | .keyset => Sys2Proof.Machine.execKeyset s
  | .encb => Sys2Proof.Machine.execEncb s
  | .decb => Sys2Proof.Machine.execDecb s
  | .clrerr => Sys2Proof.Machine.execClrerr s
  | .frOpenEnc => Sys2Proof.Machine.execFrOpenEnc s
  | .frOpenDec => Sys2Proof.Machine.execFrOpenDec s
  | .frPush b => Sys2Proof.Machine.execFrPush b s
  | .frFinal => Sys2Proof.Machine.execFrFinal s
  | .frAbort => Sys2Proof.Machine.execFrAbort s

end Sys2Proof.Machine
end

