-- ==== Sys2Proof/Machine/Window.lean ====
section
/-! DEFINITION. The register window: what a read of each register returns and a write of it does, how a word
written to `CMD` is issued, and which bus accesses are admitted (10_state.md R20, R21; 20_memory.md R60 to R62;
44_control.md R210). -/

namespace Sys2Proof.Machine

/-- The registers in the order of their offsets, 4 bytes apart (10_state.md R20). -/
def regMap : Vector Reg 16 :=
  #v[.cmd, .status, .keyHi, .keyLo, .dinHi, .dinLo, .doutHi, .doutLo,
    .frOut, .frByteCnt, .id, .config, .rsv30, .rsv34, .rsv38, .rsv3C]

/-- The register at a window offset, chosen by `off[5:2]` (20_memory.md R60). -/
def regAt (off : Nat) : Reg := regMap[off / 4 % 16]

/-- The window offset of a register (10_state.md R20). -/
def Reg.offset : Reg → Nat
  | .cmd => 0x00
  | .status => 0x04
  | .keyHi => 0x08
  | .keyLo => 0x0C
  | .dinHi => 0x10
  | .dinLo => 0x14
  | .doutHi => 0x18
  | .doutLo => 0x1C
  | .frOut => 0x20
  | .frByteCnt => 0x24
  | .id => 0x28
  | .config => 0x2C
  | .rsv30 => 0x30
  | .rsv34 => 0x34
  | .rsv38 => 0x38
  | .rsv3C => 0x3C

/-- The value a read of a register returns and the state after it: only `FR_OUT` has a side effect
(20_memory.md R62, R67). -/
def readReg (reg : Reg) (s : State) : Word × State :=
  match reg with
  | .cmd => (0, s)
  | .status => (s.statusWord, s)
  | .keyHi => (hiWord s.key, s)
  | .keyLo => (loWord s.key, s)
  | .dinHi => (hiWord s.din, s)
  | .dinLo => (loWord s.din, s)
  | .doutHi => (hiWord s.dout, s)
  | .doutLo => (loWord s.dout, s)
  | .frOut => popOut s
  | .frByteCnt => (s.frByteCnt, s)
  | .id => (idWord, s)
  | .config => (configWord s.cfg, s)
  | .rsv30 | .rsv34 | .rsv38 | .rsv3C => (0, s)

/-- `IssueCommand(w)`: BUSY first, then the decoder, then the command itself (44_control.md R210). -/
def issueCommand (w : Word) (s : State) : Result :=
  if s.busy then .next (raiseError .busy s)
  else
    match decode w with
    | .error _ => .next (raiseError .illegal s)
    | .ok i => exec i s

/-- The effect of a 32-bit write of a register: `CMD` issues a command, `KEY` and `DIN` store, and a write of any
other register is ignored (20_memory.md R62). -/
def writeReg (reg : Reg) (v : Word) (s : State) : Result :=
  match reg with
  | .cmd => issueCommand v s
  | .keyHi => .next { s with key := setHi s.key v }
  | .keyLo => .next { s with key := setLo s.key v }
  | .dinHi => .next { s with din := setHi s.din v }
  | .dinLo => .next { s with din := setLo s.din v }
  | .status | .doutHi | .doutLo | .frOut | .frByteCnt | .id | .config
  | .rsv30 | .rsv34 | .rsv38 | .rsv3C => .next s

/-- An access reaches its register only if the core admits it: not during reset (70_reset_and_hazards.md R250), in
the window (20_memory.md R60; log 9), 32 bits wide and at a multiple of 4 (R61; log 10). -/
def access (addr : Nat) (width : Width) (s : State) (reach : Reg → Result) : Result :=
  if s.inReset then .refused .accessDuringReset
  else if s.cfg.inWindow addr = false then .fault .outsideWindow
  else if width ≠ .w32 then .refused .accessWidth
  else if (addr - s.cfg.base) % 4 ≠ 0 then .refused .accessMisaligned
  else reach (regAt (addr - s.cfg.base))

/-- The host receives the value a read returned (log 13). -/
def receive (addr : Nat) (data : Word) (s : State) : State :=
  { s with replies := s.replies ++ [⟨addr, data⟩] }

/-- `MemRead` (20_memory.md R62). -/
def busRead (addr : Nat) (width : Width) (s : State) : Result :=
  access addr width s fun reg => .next (receive addr (readReg reg s).1 (readReg reg s).2)

/-- `MemWrite` (20_memory.md R62). -/
def busWrite (addr : Nat) (width : Width) (data : BitVec 64) (s : State) : Result :=
  access addr width s fun reg => writeReg reg (data.setWidth 32) s

/-- One round of a polling loop: the read is done, and the loop `op` stays the host's next item until the value
read, masked, is the wanted one (30_encoding.md R87; log 18). -/
def pollRead (addr : Nat) (mask want : Word) (s : State) : Result :=
  access addr .w32 s fun reg =>
    let v := (readReg reg s).1
    let t := receive addr v (readReg reg s).2
    if v &&& mask = want then .next t
    else .next { t with hostProg := .repeatRd addr mask want :: t.hostProg }

end Sys2Proof.Machine
end

