-- ==== Sys2Proof/Machine/Agents.lean ====
section
/-! DEFINITION. The moves of the three agents: the host's next bus access, the engine's steps, and the platform's
reset input (00_scope.md R13; 70_reset_and_hazards.md R250 to R252, R259). -/

namespace Sys2Proof.Machine

/-- The host issues the next item of its program; with none left it does nothing (00_scope.md R13). -/
def hostTurn (s : State) : Result :=
  match s.hostProg with
  | [] => .next s
  | .rd addr width :: rest => busRead addr width { s with hostProg := rest }
  | .wr addr width data :: rest => busWrite addr width data { s with hostProg := rest }
  | .repeatRd addr mask want :: rest => pollRead addr mask want { s with hostProg := rest }

/-- The engine's completion step; while reset is asserted the core takes no step (44_control.md R213,
70_reset_and_hazards.md R250). -/
def engineTurn (s : State) : State := if s.inReset then s else engineStep s

/-- The engine's micro-step; while reset is asserted the core takes no step (70_reset_and_hazards.md R250). -/
def microTurn (s : State) : State := if s.inReset then s else microStep s

/-- The core when reset is deasserted: every register has its reset value, any job and stream is gone, and the
registers of unspecified reset value hold free values (10_state.md R50; 70_reset_and_hazards.md R251, R252; log 3).
The parameters, and the host's own program, turns and replies, are not the core's state and stay. -/
def resetCore (s : State) : State :=
  { s with
    key := 0
    din := 0
    dout := 0
    keyValid := false
    frMode := .idle
    frDone := false
    errCode := .none
    errOvf := false
    bufCount := 0
    laValid := false
    frByteCnt := 0
    outq := []
    ks := Config.freeKs s.draws
    c := Config.freeC s.draws
    d := Config.freeD s.draws
    l := Config.freeL s.draws
    r := Config.freeR s.draws
    rc := Config.freeRc s.draws
    job := .none
    jin := Config.freeJin s.draws
    buf := Config.freeBuf s.draws
    la := Config.freeLa s.draws
    started := false
    inReset := false
    draws := s.draws + 1 }

/-- The platform drives the reset input: its effect is complete when reset is deasserted
(70_reset_and_hazards.md R250; log 11). -/
def resetTurn (asserted : Bool) (s : State) : State :=
  if asserted then { s with inReset := true }
  else if s.inReset then resetCore s
  else s

/-- The move of the agent whose turn it is. -/
def takeTurn (t : Turn) (s : State) : Result :=
  match t with
  | .host => hostTurn s
  | .engine => .next (engineTurn s)
  | .micro => .next (microTurn s)
  | .reset asserted => .next (resetTurn asserted s)

/-- Who moves when the list of turns is empty: nobody during reset, the engine if a job is pending (so no job is
pending for ever, 70_reset_and_hazards.md R259), else the host (log 4). -/
def defaultTurn (s : State) : Result :=
  if s.inReset then .next s
  else if s.busy then .next (engineStep s)
  else hostTurn s

end Sys2Proof.Machine
end

