-- ==== Sys2Proof/Machine/Step.lean ====
section
/-! DEFINITION. One step of the whole machine: the agent whose turn it is moves, atomically (00_scope.md R13,
20_memory.md R70). -/

namespace Sys2Proof.Machine

/-- One step: the first entry of `turns` moves; with none left `defaultTurn` says who does. -/
def step (s : State) : Host.Outcome State Fault Refusal :=
  match s.turns with
  | t :: rest => takeTurn t { s with turns := rest }
  | [] => defaultTurn s

/-- The machine with the write of a command word to `CMD` as the host's next bus access, and the host next to move
(log 5). The low `nbits` bits of `w` are the word. -/
def State.withFetchWord (s : State) (nbits w : Nat) : State :=
  { s with
    inReset := false
    turns := .host :: s.turns
    hostProg := .wr s.cfg.base .w32 (BitVec.ofNat 64 (w % 2 ^ nbits)) :: s.hostProg }

end Sys2Proof.Machine
end

