-- ==== Sys2Proof/Machine/HostProgram.lean ====
section
/-! DEFINITION. The host program syntax and the pseudo-instructions with their expansions (30_encoding.md R86,
R87). -/

namespace Sys2Proof.Machine

/-- `WR <reg>, <imm32>` (30_encoding.md R86). -/
def wrReg (c : Config) (reg : Reg) (v : Word) : HostOp := .wr (c.base + reg.offset) .w32 (v.setWidth 64)

/-- `RD <reg>` (30_encoding.md R86). -/
def rdReg (c : Config) (reg : Reg) : HostOp := .rd (c.base + reg.offset) .w32

/-- `CMD <mnemonic>` and `CMD FR_PUSH, <imm8>` (30_encoding.md R86). -/
def cmdOp (c : Config) (i : Instr) : HostOp := wrReg c .cmd (encode i)

/-- Repeat `RD STATUS` until `BUSY = 0` (30_encoding.md R87). -/
def waitOp (c : Config) : HostOp := .repeatRd (c.base + Reg.status.offset) 0x01 0

/-- Repeat `RD STATUS` until `BUSY = 0` and `IN_READY = 1` (30_encoding.md R87). -/
def waitRdyOp (c : Config) : HostOp := .repeatRd (c.base + Reg.status.offset) 0x11 0x10

/-- Repeat `RD FR_OUT` until a read returns `FR_OUT[8] = 0` (30_encoding.md R87). -/
def drainOp (c : Config) : HostOp := .repeatRd (c.base + Reg.frOut.offset) 0x100 0

/-- The expansions of the pseudo-instructions (30_encoding.md R87). -/
def Pseudo.expand (c : Config) : Pseudo → List HostOp
  | .wait => [waitOp c]
  | .waitRdy => [waitRdyOp c]
  | .setKey k => [wrReg c .keyHi (hiWord k), wrReg c .keyLo (loWord k), cmdOp c .keyset, waitOp c]
  | .enc64 m =>
    [wrReg c .dinHi (hiWord m), wrReg c .dinLo (loWord m), cmdOp c .encb, waitOp c, rdReg c .doutHi, rdReg c .doutLo]
  | .dec64 x =>
    [wrReg c .dinHi (hiWord x), wrReg c .dinLo (loWord x), cmdOp c .decb, waitOp c, rdReg c .doutHi, rdReg c .doutLo]
  | .pushB b => [waitRdyOp c, cmdOp c (.frPush b)]
  | .drain => [drainOp c]

end Sys2Proof.Machine
end

