-- ==== Sys2Proof/Machine/Stream.lean ====
section
/-! DEFINITION. The stream-level functions the framer computes from one `FR_OPEN_*` to its `FR_FINAL`
(43_stream_framer.md R181). -/

namespace Sys2Proof.Machine

/-- The chunk of at most 8 bytes as a block's bytes; a chunk of `n < 8` bytes is filled with `8 - n` copies of
`8 - n` (43_stream_framer.md R181). -/
def chunkOf (bytes : List Byte) : Vector Byte 8 :=
  Vector.ofFn fun j => bytes.getD j.val (padValue bytes.length)

/-- Block `i` of a byte stream, bytes `8i` to `8i + 7`, padded if the stream ends inside it
(43_stream_framer.md R181). -/
def streamBlock (bytes : List Byte) (i : Nat) : Block := blockOf (chunkOf ((bytes.drop (8 * i)).take 8))

/-- `FrameEncrypt(KS, M)`: the `floor(N / 8)` whole blocks and the padded last one, each encrypted on its own
(43_stream_framer.md R181). -/
def frameEncrypt (ks : Subkeys) (m : List Byte) : List Byte :=
  (List.range (m.length / 8 + 1)).flatMap fun i => blockBytes (encrypt ks (streamBlock m i))

/-- `FrameDecrypt(KS, X)` with `PAD_STRIP_MAX = limit`: every block but the last verbatim, then the leading
`StripLen` bytes of the last; none when the length is not a positive multiple of 8, where `FR_FINAL` records
`ERR_LENGTH` (43_stream_framer.md R181). -/
def frameDecrypt (limit : Nat) (ks : Subkeys) (x : List Byte) : Option (List Byte) :=
  let r := x.length / 8
  let last := decrypt ks (streamBlock x (r - 1))
  if x.length = 0 ∨ x.length % 8 ≠ 0 then none
  else
    some ((List.range (r - 1)).flatMap (fun i => blockBytes (decrypt ks (streamBlock x i))) ++
      (blockBytes last).take (stripLen limit last))

end Sys2Proof.Machine
end

