-- ==== Sys2Proof/Safety.lean ====
section
/-! DEFINITION. The terms the statements use: the order of a command's checks, the invariants of a reachable state,
an undisturbed run, the end of a stream, and the host programs that run one whole stream. -/

namespace Sys2Proof.Machine

/-- The commands that need a session (60_exceptions.md R220, code 3). -/
def needsSession : Instr → Bool
  | .encb | .decb | .frOpenEnc | .frOpenDec => true
  | .nop | .keyset | .clrerr | .frPush _ | .frFinal | .frAbort => false

/-- Whether the stream state forbids the command (60_exceptions.md R220, code 4). -/
def sessionClash (i : Instr) (s : State) : Bool :=
  match i with
  | .keyset | .frOpenEnc | .frOpenDec => s.frMode != .idle
  | .frPush _ | .frFinal => s.frMode == .idle
  | .nop | .encb | .decb | .clrerr | .frAbort => false

/-- The commands that need room for 8 bytes in the output FIFO (60_exceptions.md R220, code 5). -/
def needsRoom : Instr → Bool
  | .frPush _ | .frFinal => true
  | .nop | .keyset | .encb | .decb | .clrerr | .frOpenEnc | .frOpenDec | .frAbort => false

/-- The code a decoded command is rejected with, if any, in the order of 60_exceptions.md R224. -/
def commandError (i : Instr) (s : State) : Option ErrCode :=
  if s.busy then some .busy
  else if needsSession i && !s.keyValid then some .nokey
  else if sessionClash i s then some .session
  else if needsRoom i && !s.inReady then some .overrun
  else none

/-- The jobs of the framer (10_state.md R43). -/
def Job.isFramer : Job → Bool
  | .frEnc | .frDec | .frEncFinal => true
  | .none | .keyset | .encb | .decb => false

/-- The seven invariants of 10_state.md R48, in its order. -/
structure State.SpecInv (s : State) : Prop where
  busy_iff_job : s.busy = true ↔ s.job ≠ .none
  open_has_key : s.frMode ≠ .idle → s.keyValid = true ∧ s.job ≠ .keyset
  la_only_dec : s.laValid = true → s.frMode = .dec
  idle_is_empty : s.frMode = .idle → s.bufCount = 0 ∧ s.laValid = false
  outq_bounded : s.outq.length ≤ s.cfg.outDepth
  job_has_mode :
    (s.job = .frEnc ∨ s.job = .frEncFinal → s.frMode = .enc) ∧ (s.job = .frDec → s.frMode = .dec)
  ovf_has_code : s.errOvf = true → s.errCode ≠ .none

/-- The invariant every step keeps: R48, legal parameters, and what makes R48 inductive: a framer job was accepted
with room for 8 bytes and an empty chunk (43_stream_framer.md R173, R176), and every block job has a session. -/
structure State.Inv (s : State) : Prop where
  spec : s.SpecInv
  cfg_wf : s.cfg.wf = true
  job_has_room : s.job.isFramer = true → s.outq.length + 8 ≤ s.cfg.outDepth
  job_chunk_empty : s.job.isFramer = true → s.bufCount = 0
  block_job_has_key : s.busy = true → s.job ≠ .keyset → s.keyValid = true

/-- An entry of `turns` that drives the reset input. -/
def Turn.isReset : Turn → Bool
  | .reset _ => true
  | .host | .engine | .micro => false

/-- Nothing outside the core's admitted use is ahead: reset is not asserted and stays so, and the host issues only
admitted accesses (20_memory.md R61, 70_reset_and_hazards.md R250). -/
def State.undisturbed (s : State) : Bool :=
  !s.inReset && s.turns.all (fun t => !t.isReset) && s.hostProg.all s.cfg.admitsOp

/-- A stream has ended successfully, as `STATUS` shows it (70_reset_and_hazards.md R261). -/
def State.streamEnded (s : State) : Bool := !s.busy && s.frMode == .idle && s.frDone

/-- A stream has failed, as `STATUS` shows it (70_reset_and_hazards.md R261). -/
def State.streamFailed (s : State) : Bool := s.errCode.isStreamFatal && s.frMode == .idle && !s.frDone

/-- The host's bus operations of one whole stream: open it, push each byte (`PUSHB`) and drain the output as it
comes, end it, and drain the rest (30_encoding.md R86, R87). -/
def streamOps (c : Config) (openCmd : Instr) (bytes : List Byte) : List HostOp :=
  cmdOp c openCmd :: bytes.flatMap (fun b => (Pseudo.pushB b).expand c ++ [waitOp c, drainOp c]) ++
    [cmdOp c .frFinal, waitOp c, drainOp c]

/-- The bytes a host got from `FR_OUT`: of its reads of `FR_OUT` with `FR_OUT[8] = 1`, bits 7:0
(30_encoding.md R87, `DRAIN`). -/
def drainedBytes (c : Config) (replies : List Reply) : List Byte :=
  replies.filterMap fun r =>
    if r.addr = c.base + Reg.frOut.offset ∧ r.data.getLsbD 8 = true then some (r.data.extractLsb' 0 8) else none

end Sys2Proof.Machine
end

