-- ==== Sys2Proof/Certificates/Slice0/Obligations.lean ====
section
/-! DEFINITION. The statements for the provers. Each docstring names the rule of spec/ a statement follows, or says
which clause is the model's own choice and its log entry. -/

open Sys2Proof Sys2Proof.Machine

/-! ## Encoding (30_encoding.md) -/

/-- Decoding the encoded command gives it back with its operand, and the decoder reads each legal word as the one
command that encodes to it (30_encoding.md R82, R83). -/
def Obligations.DecodeEncodeAgree : Prop :=
  (∀ i : Instr, decode (encode i) = .ok i) ∧ ∀ (w : Word) (i : Instr), decode w = .ok i → encode i = w

/-- `Decode` line by line, and the number of legal words (30_encoding.md R83). -/
def Obligations.DecoderLinesAndLegalWordCount : Prop :=
  (∀ w : Word, w.extractLsb' 16 16 ≠ 0 → ∃ e, decode w = .error e) ∧
  (∀ b : Byte, decode (0#16 ++ b ++ 0x12#8) = .ok (.frPush b)) ∧
  (∀ op arg : Byte, op ≠ 0x12 → arg ≠ 0 → ∃ e, decode (0#16 ++ arg ++ op) = .error e) ∧
  (let plain : List (Byte × Instr) :=
    [(0x00, .nop), (0x01, .keyset), (0x02, .encb), (0x03, .decb), (0x04, .clrerr), (0x10, .frOpenEnc),
      (0x11, .frOpenDec), (0x13, .frFinal), (0x14, .frAbort)]
   (∀ p ∈ plain, decode (0#16 ++ 0#8 ++ p.1) = .ok p.2) ∧
   (∀ op : Byte, op ≠ 0x12 → (∀ p ∈ plain, p.1 ≠ op) → ∃ e, decode (0#16 ++ 0#8 ++ op) = .error e)) ∧
  ∃ legal : List Word, legal.Nodup ∧ legal.length = 265 ∧ ∀ w : Word, w ∈ legal ↔ ∃ i, decode w = .ok i

/-- Words written out from the table of 30_encoding.md R82 decode to their commands. -/
def Obligations.WrittenWordsDecode : Prop :=
  decode 0x00000000 = .ok .nop ∧ decode 0x00000001 = .ok .keyset ∧ decode 0x00000002 = .ok .encb ∧
  decode 0x00000003 = .ok .decb ∧ decode 0x00000004 = .ok .clrerr ∧ decode 0x00000010 = .ok .frOpenEnc ∧
  decode 0x00000011 = .ok .frOpenDec ∧ decode 0x00004112 = .ok (.frPush 0x41) ∧
  decode 0x00000013 = .ok .frFinal ∧ decode 0x00000014 = .ok .frAbort

/-- A word that is no command is rejected with `ERR_ILLEGAL`, or with `ERR_BUSY` while a job is pending, and changes
only the error record; the 246 opcodes outside the map are such words (30_encoding.md R84). -/
def Obligations.IllegalWordOnlyRecords : Prop :=
  (∀ (w : Word) (s : State) (e : Illegal), decode w = .error e →
    issueCommand w s =
      .next { s with
        errCode := recordedCode s.errCode (if s.busy then .busy else .illegal)
        errOvf := s.errOvf || s.errCode != .none }) ∧
  (∀ (op arg : Byte) (rsv : BitVec 16),
    (0x05 ≤ op.toNat ∧ op.toNat ≤ 0x0F) ∨ 0x15 ≤ op.toNat → ∃ e, decode (rsv ++ arg ++ op) = .error e) ∧
  ((List.range 256).filter fun n => (0x05 ≤ n && n ≤ 0x0F) || 0x15 ≤ n).length = 246

/-! ## The step (00_scope.md R13, 44_control.md R210) -/

/-- When the host is to move and its next access writes a word to `CMD` that decodes to `i`, the step is `exec i` at
the state with that access and that turn taken; with no turn listed and no job pending the host is to move. This
machine has no program counter: the write is the fetch (10_state.md R37). -/
def Obligations.StepRunsDecodedCommand : Prop :=
  ∀ (s : State) (i : Instr) (data : BitVec 64) (rest : List HostOp),
    s.inReset = false → s.hostProg = .wr (s.cfg.base + Reg.cmd.offset) .w32 data :: rest →
    decode (data.setWidth 32) = .ok i →
    (∀ ts, s.turns = .host :: ts → step s = exec i { s with turns := ts, hostProg := rest }) ∧
    (s.turns = [] → s.busy = false → step s = exec i { s with hostProg := rest })

/-- A turn of the engine takes the completion step, or, as a micro-step, one round of the datapath; a turn of the
platform drives the reset input. -/
def Obligations.StepTakesEngineAndResetTurns : Prop :=
  ∀ (s : State) (ts : List Turn),
    (s.turns = .engine :: ts → s.inReset = false → step s = .next (engineStep { s with turns := ts })) ∧
    (s.turns = .micro :: ts → s.inReset = false → step s = .next (microStep { s with turns := ts })) ∧
    (∀ level, s.turns = .reset level :: ts → step s = .next (resetTurn level { s with turns := ts })) ∧
    (s.inReset = true → s.turns = .engine :: ts ∨ s.turns = .micro :: ts → step s = .next { s with turns := ts })

/-! ## The permutation engine and the key schedule (40_permutation_engine.md, 41_key_schedule.md) -/

/-- Output position `i` of a permutation is input position `T[i]`, both 1-based from the most significant bit
(40_permutation_engine.md R100). -/
def Obligations.PermuteMovesPositions : Prop :=
  ∀ (w o : Nat) (t : Table w o) (x : BitVec w) (i : Nat) (_ : 1 ≤ i) (hi : i ≤ o),
    (permute t x).getLsbD (o - i) = x.getLsbD (w - t.entries[i - 1]'(by have := t.length_eq; omega))

/-- FP undoes IP, and IP undoes FP (40_permutation_engine.md R105). -/
def Obligations.FinalUndoesInitialPermutation : Prop :=
  ∀ x : Block, permute tableFP (permute tableIP x) = x ∧ permute tableIP (permute tableFP x) = x

/-- Each round rotates the halves the round before left, and after round 16 they are back where PC-1 put them
(41_key_schedule.md R122). -/
def Obligations.RotationsAccumulateAndReturn : Prop :=
  ∀ k : Block,
    (∀ n, halvesAfter k (n + 1) =
      (rotl28 (halvesAfter k n).1 (shiftOf (n + 1)), rotl28 (halvesAfter k n).2 (shiftOf (n + 1)))) ∧
    halvesAfter k 16 = halvesAfter k 0

/-- Keys that differ only in the parity bits, the low-order bit of each byte, give the same subkeys, and `KEYSET`
accepts a key whatever its parity (41_key_schedule.md R123, and R124, acceptance). `started` is the model's own, log 7. -/
def Obligations.ParityBitsDoNotMatter : Prop :=
  (∀ k k' : Block, (∀ i < 64, i % 8 ≠ 0 → k.getLsbD i = k'.getLsbD i) → keySchedule k = keySchedule k') ∧
  ∀ (s : State) (k : Block), s.busy = false → s.frMode = .idle →
    exec .keyset { s with key := k } = .next { s with key := k, jin := k, keyValid := false, job := .keyset, started := false }

/-- The micro-steps of a key schedule: after the first, `C` and `D` hold the halves of PC-1 and `RC` is 0; after `n`
more they hold the halves of round `n`, `RC` is `n`, and the first `n` subkeys are made; nothing the host can see
changes (41_key_schedule.md R125). That the subkeys wait outside `KS` until completion is the model's reading, log 7. -/
def Obligations.ScheduleMicroStepsFollowRounds : Prop :=
  ∀ (s : State) (n : Nat), s.job = .keyset → s.started = false → n ≤ 16 →
    let t := microStep^[n + 1] s
    (t.c, t.d) = halvesAfter s.jin n ∧ t.rc.val = n ∧
    (∀ i : Fin 16, i.val < n → t.ksNext[i] = (keySchedule s.jin)[i]) ∧
    t = { s with c := t.c, d := t.d, rc := t.rc, ksNext := t.ksNext, started := true }

/-! ## The Feistel core (42_feistel_core.md) -/

/-- The round function: expansion, XOR, eight groups through their boxes from the most significant end, and the round
permutation (42_feistel_core.md R149). -/
def Obligations.RoundFunctionByGroups : Prop :=
  let boxes : Vector SBox 8 := #v[sbox1, sbox2, sbox3, sbox4, sbox5, sbox6, sbox7, sbox8]
  ∀ (r : Half) (k : Subkey), ∃ y : BitVec 32, roundF r k = permute tableP y ∧
    ∀ j : Fin 8, y.extractLsb' (28 - 4 * j.val) 4 =
      boxes[j].lookup ((permute tableE r ^^^ k).extractLsb' (42 - 6 * j.val) 6)

/-- For any sixteen subkeys decryption undoes encryption and encryption undoes decryption (42_feistel_core.md R152,
item 2). -/
def Obligations.DecryptUndoesEncrypt : Prop :=
  ∀ (ks : Subkeys) (x : Block), decrypt ks (encrypt ks x) = x ∧ encrypt ks (decrypt ks x) = x

/-- The mirrored form of decryption equals the data path of encryption with the subkeys reversed
(42_feistel_core.md R152, item 1). -/
def Obligations.MirroredFormIsReversedSchedule : Prop :=
  ∀ (ks : Subkeys) (x : Block), decrypt ks x = encrypt ks.reverse x

/-- Complementing key and block complements the ciphertext (42_feistel_core.md R152, item 4). -/
def Obligations.ComplementationProperty : Prop :=
  ∀ k m : Block, encrypt (keySchedule (~~~k)) (~~~m) = ~~~(encrypt (keySchedule k) m)

/-- Equal subkeys make encryption and decryption the same, and the six keys named have equal subkeys
(42_feistel_core.md R152, item 5). -/
def Obligations.WeakKeysMakeTheTransformsEqual : Prop :=
  (∀ ks : Subkeys, (∀ i j : Fin 16, ks[i] = ks[j]) → ∀ m, encrypt ks m = decrypt ks m) ∧
  ∀ k ∈ ([0x0101010101010101, 0xFEFEFEFEFEFEFEFE, 0xE0E0E0E0F1F1F1F1, 0x1F1F1F1F0E0E0E0E, 0, 0xFFFFFFFFFFFFFFFF] :
      List Block),
    ∀ i j : Fin 16, (keySchedule k)[i] = (keySchedule k)[j]

/-- The worked examples of 42_feistel_core.md R150, R151 and R153. -/
def Obligations.KnownAnswers : Prop :=
  encrypt (keySchedule 0x133457799BBCDFF1) 0x0123456789ABCDEF = 0x85E813540F0AB405 ∧
  decrypt (keySchedule 0x133457799BBCDFF1) 0x85E813540F0AB405 = 0x0123456789ABCDEF ∧
  encrypt (keySchedule 0x0011223344556677) 0x0F1E2D3C4B5A6978 = 0x1BD6EF8BA5A0619C

/-- The micro-steps of a block job: after the first, `L` and `R` hold the halves of IP and `RC` is 0; each further
one is a round with the subkey of its direction; after round 16 the final permutation of `R ‖ L` is `Encrypt` or
`Decrypt`; nothing the host can see changes (42_feistel_core.md R155). -/
def Obligations.BlockMicroStepsComputeTheTransform : Prop :=
  ∀ (s : State) (n : Nat), s.started = false → n ≤ 16 →
    let t := microStep^[n + 1] s
    (s.job = .encb ∨ s.job = .frEnc ∨ s.job = .frEncFinal →
      (t.l, t.r) = roundsAfter .encrypting s.ks s.jin n ∧ t.rc.val = n ∧
      t = { s with l := t.l, r := t.r, rc := t.rc, started := true } ∧
      (n = 16 → joinFP (t.l, t.r) = encrypt s.ks s.jin)) ∧
    (s.job = .decb ∨ s.job = .frDec →
      (t.l, t.r) = roundsAfter .decrypting s.ks s.jin n ∧ t.rc.val = n ∧
      t = { s with l := t.l, r := t.r, rc := t.rc, started := true } ∧
      (n = 16 → joinFP (t.l, t.r) = decrypt s.ks s.jin))

/-- However many micro-steps run before it, a completion step gives the same state: they may be collapsed into it
(41_key_schedule.md R125, 42_feistel_core.md R155). -/
def Obligations.MicroStepsCollapseIntoCompletion : Prop :=
  ∀ (s : State) (n : Nat), engineStep (microStep^[n] s) = engineStep s

/-! ## The commands, accepted -/

/-- `NOP` changes nothing, and `CLRERR` clears the error record and nothing else (44_control.md R211, R212). -/
def Obligations.NopAndClrerrComplete : Prop :=
  ∀ s : State, s.busy = false →
    exec .nop s = .next s ∧ exec .clrerr s = .next { s with errCode := .none, errOvf := false }

/-- `KEYSET` with no stream open latches `KEY`, ends the session and leaves its job; no session is needed
(41_key_schedule.md R124, acceptance). `started` is the model's own, log 7. -/
def Obligations.KeysetIsAccepted : Prop :=
  ∀ s : State, s.busy = false → s.frMode = .idle →
    exec .keyset s = .next { s with jin := s.key, keyValid := false, job := .keyset, started := false }

/-- `ENCB` and `DECB` with a session latch `DIN` and leave their job, whether or not a stream is open
(42_feistel_core.md R153, R154, acceptance). `started` is the model's own, log 7. -/
def Obligations.EncbAndDecbAreAccepted : Prop :=
  ∀ s : State, s.busy = false → s.keyValid = true →
    exec .encb s = .next { s with jin := s.din, job := .encb, started := false } ∧
    exec .decb s = .next { s with jin := s.din, job := .decb, started := false }

/-- `FR_OPEN_ENC` and `FR_OPEN_DEC` with a session and no stream open start an empty stream; `OUTQ` and the error
record stay (43_stream_framer.md R171, R172). That the stale `BUF` bytes and `LA` are kept is log 12. -/
def Obligations.FrOpenStartsAStream : Prop :=
  ∀ s : State, s.busy = false → s.keyValid = true → s.frMode = .idle →
    exec .frOpenEnc s =
      .next { s with frMode := .enc, bufCount := 0, laValid := false, frDone := false, frByteCnt := 0 } ∧
    exec .frOpenDec s =
      .next { s with frMode := .dec, bufCount := 0, laValid := false, frDone := false, frByteCnt := 0 }

/-- `FR_PUSH` in an open stream with room stores and counts its byte; the eighth byte of a chunk latches the block,
`BUF[0]` most significant, and leaves the job of the stream's direction (43_stream_framer.md R173). `started` is the
model's own, log 7. -/
def Obligations.FrPushStoresItsByte : Prop :=
  ∀ (s : State) (b : Byte), s.busy = false → s.frMode ≠ .idle → 8 ≤ s.cfg.outDepth - s.outq.length →
    (s.bufCount.val < 7 →
      exec (.frPush b) s =
        .next { s with buf := s.buf.set s.bufCount b, bufCount := s.bufCount + 1, frByteCnt := s.frByteCnt + 1 }) ∧
    (s.bufCount.val = 7 →
      exec (.frPush b) s =
        .next { s with
          buf := s.buf.set 7 b
          bufCount := 0
          frByteCnt := s.frByteCnt + 1
          jin := s.buf[0] ++ s.buf[1] ++ s.buf[2] ++ s.buf[3] ++ s.buf[4] ++ s.buf[5] ++ s.buf[6] ++ b
          job := if s.frMode = .enc then .frEnc else .frDec
          started := false })

/-- `FR_FINAL` in ENC mode with room latches the chunk filled with `8 - n` bytes of value `8 - n` and leaves the final
job; the mode stays ENC (43_stream_framer.md R176, acceptance). `started` is the model's own, log 7. -/
def Obligations.FrFinalPadsInEncMode : Prop :=
  ∀ s : State, s.busy = false → s.frMode = .enc → 8 ≤ s.cfg.outDepth - s.outq.length →
    ∃ chunk : Vector Byte 8,
      (∀ j : Fin 8, (j.val < s.bufCount.val → chunk[j] = s.buf[j]) ∧
        (s.bufCount.val ≤ j.val → chunk[j].toNat = 8 - s.bufCount.val)) ∧
      exec .frFinal s =
        .next { s with
          buf := chunk
          bufCount := 0
          jin := chunk[0] ++ chunk[1] ++ chunk[2] ++ chunk[3] ++ chunk[4] ++ chunk[5] ++ chunk[6] ++ chunk[7]
          job := .frEncFinal
          started := false }

/-- `FR_FINAL` in DEC mode with room: a length that is no positive multiple of 8 ends the stream with `ERR_LENGTH`; else
the leading `StripLen` bytes of the held block are emitted and the stream closes, with no error whatever the padding,
and no job (43_stream_framer.md R177, R185). That the stale `BUF` bytes and `LA` are kept is log 12. -/
def Obligations.FrFinalStripsInDecMode : Prop :=
  ∀ s : State, s.busy = false → s.frMode = .dec → 8 ≤ s.cfg.outDepth - s.outq.length →
    (s.bufCount ≠ 0 ∨ s.laValid = false →
      exec .frFinal s =
        .next { s with
          errCode := recordedCode s.errCode .length
          errOvf := s.errOvf || s.errCode != .none
          frMode := .idle
          bufCount := 0
          laValid := false
          outq := []
          frDone := false }) ∧
    (s.bufCount = 0 → s.laValid = true →
      exec .frFinal s =
        .next { s with
          outq := s.outq ++ (blockBytes s.la).take (stripLen s.cfg.padStripMax s.la)
          laValid := false
          frMode := .idle
          frDone := true })

/-- `FR_ABORT` does nothing while idle and ends an open stream with `ERR_IO` (43_stream_framer.md R179). That the
stale `BUF` bytes and `LA` are kept is log 12. -/
def Obligations.FrAbortEndsTheStream : Prop :=
  ∀ s : State, s.busy = false →
    (s.frMode = .idle → exec .frAbort s = .next s) ∧
    (s.frMode ≠ .idle →
      exec .frAbort s =
        .next { s with
          errCode := recordedCode s.errCode .io
          errOvf := s.errOvf || s.errCode != .none
          frMode := .idle
          bufCount := 0
          laValid := false
          outq := []
          frDone := false })

/-- How many leading bytes of the last block are emitted: `8 - p` when its last `p` bytes all have value `p` with `p`
from 1 to `PAD_STRIP_MAX`, and all 8 otherwise (43_stream_framer.md R178). -/
def Obligations.StripLenFollowsTheHeuristic : Prop :=
  ∀ (limit : Nat) (b : Block), limit = 7 ∨ limit = 8 →
    let p := (byteOf b 7).toNat
    (1 ≤ p → p ≤ limit → (∀ j, 8 - p ≤ j → j ≤ 7 → (byteOf b j).toNat = p) → stripLen limit b = 8 - p) ∧
    (p = 0 ∨ limit < p ∨ (∃ j, 8 - p ≤ j ∧ j ≤ 7 ∧ (byteOf b j).toNat ≠ p) → stripLen limit b = 8)

/-! ## The commands, rejected, and the error record (60_exceptions.md) -/

/-- The first check that fires, in the order BUSY, NOKEY, SESSION, OVERRUN, decides a decoded command's error; a command
with none is accepted. The decoder's check lies between the first two (60_exceptions.md R224). -/
def Obligations.FirstFiringCheckDecides : Prop :=
  ∀ (w : Word) (s : State),
    (s.busy = true → issueCommand w s = .next (raiseError .busy s)) ∧
    (s.busy = false → (∀ i, decode w ≠ .ok i) → issueCommand w s = .next (raiseError .illegal s)) ∧
    ∀ i, decode w = .ok i →
      (∀ code, commandError i s = some code → issueCommand w s = .next (raiseError code s)) ∧
      (commandError i s = none → ∃ t, issueCommand w s = .next t ∧
        (t.errCode = s.errCode ∨ i = .clrerr ∨ (i = .frFinal ∧ s.frMode = .dec ∧
          t.errCode = recordedCode s.errCode .length) ∨ (i = .frAbort ∧ t.errCode = recordedCode s.errCode .io)))

/-- A rejected write of `CMD`, for each of the codes 1 to 5, has no effect other than recording its code
(60_exceptions.md R222). -/
def Obligations.RejectedCommandOnlyRecords : Prop :=
  ∀ (w : Word) (s : State) (code : ErrCode),
    (s.busy = true ∧ code = .busy) ∨ (s.busy = false ∧ (∀ i, decode w ≠ .ok i) ∧ code = .illegal) ∨
      (∃ i, decode w = .ok i ∧ commandError i s = some code) →
    code ∈ [ErrCode.illegal, .busy, .nokey, .session, .overrun] ∧
    issueCommand w s =
      .next { s with
        errCode := recordedCode s.errCode code
        errOvf := s.errOvf || s.errCode != .none }

/-- Recording: the first code is kept, a later error sets `ERR_OVF`, and a stream-fatal code displaces a
rejected-command code; a rejected command and the end of a stream both record this way (60_exceptions.md R221). -/
def Obligations.RecordErrorKeepsTheFirst : Prop :=
  ∀ (s : State) (code : ErrCode),
    (s.errCode = .none → recordError code s = { s with errCode := code }) ∧
    (s.errCode ≠ .none →
      (code ∈ [ErrCode.length, .io] → s.errCode ∉ [ErrCode.length, .io] →
        recordError code s = { s with errOvf := true, errCode := code }) ∧
      (code ∉ [ErrCode.length, .io] ∨ s.errCode ∈ [ErrCode.length, .io] →
        recordError code s = { s with errOvf := true })) ∧
    raiseError code s = recordError code s ∧
    (streamFatal code s).errCode = (recordError code s).errCode ∧
    (streamFatal code s).errOvf = (recordError code s).errOvf

/-- What a command leaves alone when it answers a next state: each field changes only under the commands whose rules
write it (41_key_schedule.md R124; 42_feistel_core.md R153, R154; 43_stream_framer.md R171 to R179; 44_control.md R211,
R212). The last clause: the error record changes only by recording an error or by `CLRERR`. That
`BUF` and `LA` keep contents no rule can read any more is the model's reading, log 12. -/
def Obligations.CommandsLeaveTheRestAlone : Prop :=
  ∀ (i : Instr) (s t : State), exec i s = .next t →
    (t.cfg = s.cfg ∧ t.key = s.key ∧ t.din = s.din ∧ t.dout = s.dout ∧ t.ks = s.ks ∧ t.c = s.c ∧ t.d = s.d ∧
      t.l = s.l ∧ t.r = s.r ∧ t.rc = s.rc ∧ t.la = s.la ∧ t.ksNext = s.ksNext ∧ t.inReset = s.inReset ∧
      t.turns = s.turns ∧ t.hostProg = s.hostProg ∧ t.replies = s.replies ∧ t.draws = s.draws) ∧
    (i ≠ .keyset → t.keyValid = s.keyValid) ∧
    (i ∉ [.frOpenEnc, .frOpenDec, .frFinal, .frAbort] →
      t.frMode = s.frMode ∧ t.frDone = s.frDone ∧ t.laValid = s.laValid) ∧
    (i ∉ [.frFinal, .frAbort] → t.outq = s.outq) ∧
    ((∀ b, i ≠ .frPush b) → i ∉ [.frOpenEnc, .frOpenDec, .frFinal, .frAbort] → t.bufCount = s.bufCount) ∧
    ((∀ b, i ≠ .frPush b) → i ≠ .frFinal → t.buf = s.buf) ∧
    ((∀ b, i ≠ .frPush b) → i ∉ [.frOpenEnc, .frOpenDec] → t.frByteCnt = s.frByteCnt) ∧
    ((∀ b, i ≠ .frPush b) → i ∉ [.keyset, .encb, .decb, .frFinal] →
      t.job = s.job ∧ t.jin = s.jin ∧ t.started = s.started) ∧
    (i ≠ .clrerr → (t.errCode = s.errCode ∧ t.errOvf = s.errOvf) ∨
      ∃ code, t.errCode = recordedCode s.errCode code ∧ t.errOvf = (s.errOvf || s.errCode != .none))

/-! ## The engine's completion step (44_control.md R213) -/

/-- Completion of `KEYSET`: all sixteen subkeys of the latched key, a session, and no job; only the hidden working
registers may change beside (41_key_schedule.md R124, completion). -/
def Obligations.KeysetCompletionStartsTheSession : Prop :=
  ∀ s : State, s.job = .keyset →
    let t := engineStep s
    t = { s with
      ks := keySchedule s.jin
      keyValid := true
      job := .none
      started := false
      c := t.c
      d := t.d
      rc := t.rc
      ksNext := t.ksNext }

/-- Completion of `ENCB` and `DECB`: `DOUT` gets the transform of the latched block, and no job is left; the framer is
untouched, and only the hidden working registers may change beside (42_feistel_core.md R153, R154, completion). -/
def Obligations.BlockCompletionWritesDout : Prop :=
  ∀ s : State, let t := engineStep s
    (s.job = .encb →
      t = { s with dout := encrypt s.ks s.jin, job := .none, started := false, l := t.l, r := t.r, rc := t.rc }) ∧
    (s.job = .decb →
      t = { s with dout := decrypt s.ks s.jin, job := .none, started := false, l := t.l, r := t.r, rc := t.rc })

/-- Completion of the framer's jobs: the ciphertext bytes enter `OUTQ` most significant first; a decrypted block is held
back and the one before it emitted; the final block closes the stream (43_stream_framer.md R174 to R176). -/
def Obligations.FramerCompletionEmitsBytes : Prop :=
  ∀ s : State, let t := engineStep s
    (s.job = .frEnc →
      t = { s with
        outq := s.outq ++ (List.range 8).map (byteOf (encrypt s.ks s.jin))
        job := .none, started := false, l := t.l, r := t.r, rc := t.rc }) ∧
    (s.job = .frDec →
      t = { s with
        outq := if s.laValid then s.outq ++ (List.range 8).map (byteOf s.la) else s.outq
        la := decrypt s.ks s.jin
        laValid := true
        job := .none, started := false, l := t.l, r := t.r, rc := t.rc }) ∧
    (s.job = .frEncFinal →
      t = { s with
        outq := s.outq ++ (List.range 8).map (byteOf (encrypt s.ks s.jin))
        frMode := .idle
        frDone := true
        job := .none, started := false, l := t.l, r := t.r, rc := t.rc })

/-- While a job is pending, a write of `KEY` or `DIN` stores the half it names, reads back, changes nothing else and
records no error, and the completion step gives the same state as without it but for that half (44_control.md R214). -/
def Obligations.PendingJobIgnoresOperandWrites : Prop :=
  ∀ (s : State) (v : Word), s.busy = true →
    let storedOnly (reg : Reg) (k d : Block) : Prop :=
      let t := { s with key := k, din := d }
      writeReg reg v s = .next t ∧ (readReg reg t).1 = v ∧ engineStep t = { engineStep s with key := k, din := d }
    storedOnly .keyHi (v ++ s.key.extractLsb' 0 32) s.din ∧
    storedOnly .keyLo (s.key.extractLsb' 32 32 ++ v) s.din ∧
    storedOnly .dinHi s.key (v ++ s.din.extractLsb' 0 32) ∧
    storedOnly .dinLo s.key (s.din.extractLsb' 32 32 ++ v)

/-! ## The register window (10_state.md, 20_memory.md) -/

/-- The layout of `STATUS`: every field at its bits, the reserved bits 0, and the reset value (10_state.md R22). The
first premise is 10_state.md R46 with R8: the FIFO never holds more than 255 bytes. -/
def Obligations.StatusFieldsAreWhereR22PutsThem : Prop :=
  (∀ s : State, s.outq.length ≤ 255 →
    let w := s.statusWord
    (readReg .status s).1 = w ∧ (readReg .status s).2 = s ∧ (∀ v, writeReg .status v s = .next s) ∧
    w.getLsbD 0 = s.busy ∧ w.getLsbD 1 = s.keyValid ∧
    (w.extractLsb' 2 2).toNat = (match s.frMode with | .idle => 0 | .enc => 1 | .dec => 2) ∧
    (w.getLsbD 4 = true ↔ 8 ≤ s.cfg.outDepth - s.outq.length) ∧
    (w.getLsbD 5 = true ↔ 0 < s.outq.length) ∧
    w.getLsbD 6 = s.frDone ∧ (w.getLsbD 7 = true ↔ s.errCode ≠ .none) ∧
    w.extractLsb' 8 4 = s.errCode.bits ∧ w.getLsbD 12 = s.errOvf ∧ w.extractLsb' 13 3 = 0 ∧
    (w.extractLsb' 16 8).toNat = s.outq.length ∧ (w.extractLsb' 24 3).toNat = s.bufCount.val ∧
    w.getLsbD 27 = s.laValid ∧ w.extractLsb' 28 4 = 0) ∧
  ∀ c : Config, c.wf = true → ({ State.reset with cfg := c }).statusWord = 0x00000010

/-- What a 32-bit read returns at each offset (10_state.md R20, R21, R31 to R36). That the value is appended to `replies`
is the model's form, log 13. -/
def Obligations.ReadValuesOfTheWindow : Prop :=
  ∀ s : State, s.inReset = false →
    let value (off : Nat) (v : Word) : Prop :=
      busRead (s.cfg.base + off) .w32 s = .next { s with replies := s.replies ++ [⟨s.cfg.base + off, v⟩] }
    value 0x00 0 ∧ value 0x04 s.statusWord ∧
    value 0x08 (s.key.extractLsb' 32 32) ∧ value 0x0C (s.key.extractLsb' 0 32) ∧
    value 0x10 (s.din.extractLsb' 32 32) ∧ value 0x14 (s.din.extractLsb' 0 32) ∧
    value 0x18 (s.dout.extractLsb' 32 32) ∧ value 0x1C (s.dout.extractLsb' 0 32) ∧
    value 0x24 s.frByteCnt ∧ value 0x28 0x44455331 ∧
    value 0x2C (BitVec.ofNat 32 (s.cfg.outDepth % 256 + if s.cfg.padStripMax = 8 then 256 else 0)) ∧
    value 0x30 0 ∧ value 0x34 0 ∧ value 0x38 0 ∧ value 0x3C 0

/-- A read of `FR_OUT` returns `VALID` and the head byte and removes it; from an empty FIFO it returns 0 and changes
nothing; it is admitted in every state out of reset (43_stream_framer.md R180). That the returned value is appended to
`replies` is the model's form, log 13. -/
def Obligations.FrOutPopsTheHeadByte : Prop :=
  ∀ s : State, s.inReset = false →
    (s.outq = [] →
      busRead (s.cfg.base + 0x20) .w32 s = .next { s with replies := s.replies ++ [⟨s.cfg.base + 0x20, 0⟩] }) ∧
    ∀ b rest, s.outq = b :: rest → ∃ v : Word, v.getLsbD 8 = true ∧ v.extractLsb' 0 8 = b ∧ v.extractLsb' 9 23 = 0 ∧
      busRead (s.cfg.base + 0x20) .w32 s =
        .next { s with outq := rest, replies := s.replies ++ [⟨s.cfg.base + 0x20, v⟩] }

/-- What a 32-bit write does at each offset of the window: it issues a command at `CMD`, stores one half of `KEY` or
`DIN`, and has no effect at any other (20_memory.md R62). -/
def Obligations.WriteEffectsOfTheWindow : Prop :=
  ∀ (s : State) (data : BitVec 64), s.inReset = false →
    let v : Word := data.setWidth 32
    let write (off : Nat) : Result := busWrite (s.cfg.base + off) .w32 data s
    write 0x00 = issueCommand v s ∧
    write 0x08 = .next { s with key := v ++ s.key.extractLsb' 0 32 } ∧
    write 0x0C = .next { s with key := s.key.extractLsb' 32 32 ++ v } ∧
    write 0x10 = .next { s with din := v ++ s.din.extractLsb' 0 32 } ∧
    write 0x14 = .next { s with din := s.din.extractLsb' 32 32 ++ v } ∧
    ∀ off ∈ [0x04, 0x18, 0x1C, 0x20, 0x24, 0x28, 0x2C, 0x30, 0x34, 0x38, 0x3C], write off = .next s

/-- An access of another width, or at an offset that is no multiple of 4, is refused by name, read or write, and so is any
access while reset is asserted (20_memory.md R61, 70_reset_and_hazards.md R250). That the reset check comes first and
the width check before the alignment check is the model's choice, log 10. -/
def Obligations.UnadmittedAccessesAreRefused : Prop :=
  ∀ (s : State) (off : Nat) (width : Width) (data : BitVec 64), off < 64 →
    let both (r : Refusal) : Prop :=
      busRead (s.cfg.base + off) width s = .refused r ∧ busWrite (s.cfg.base + off) width data s = .refused r
    (s.inReset = true → both .accessDuringReset) ∧
    (s.inReset = false → width ≠ .w32 → both .accessWidth) ∧
    (s.inReset = false → width = .w32 → off % 4 ≠ 0 → both .accessMisaligned)

/-- A read of `FR_OUT` removes the head byte; no other read has a side effect, so reading twice gives the same value;
and only writes of `CMD`, `KEY` and `DIN` have an effect (20_memory.md R67). -/
def Obligations.OnlyTheNamedAccessesHaveSideEffects : Prop :=
  (∀ (s : State) (b : Byte) (rest : List Byte), s.outq = b :: rest → (readReg .frOut s).2 = { s with outq := rest }) ∧
  (∀ (reg : Reg) (s : State), (readReg reg s).2 ≠ s → reg = .frOut ∧ s.outq ≠ []) ∧
  (∀ (reg : Reg) (s : State), reg ≠ .frOut → (readReg reg (readReg reg s).2).1 = (readReg reg s).1) ∧
  ∀ (reg : Reg) (v : Word) (s : State), writeReg reg v s ≠ .next s →
    reg ∈ [Reg.cmd, .keyHi, .keyLo, .dinHi, .dinLo]

/-! ## Reset (70_reset_and_hazards.md) -/

/-- The state a run starts in: every value 10_state.md R50 gives. (The unspecified registers are log 2's choice and
stand in no clause.) -/
def Obligations.ResetValues : Prop :=
  let s := State.reset
  s.key = 0 ∧ s.din = 0 ∧ s.dout = 0 ∧ s.busy = false ∧ s.job = .none ∧ s.keyValid = false ∧ s.frMode = .idle ∧
  s.frDone = false ∧ s.errCode = .none ∧ s.errOvf = false ∧ s.bufCount = 0 ∧ s.laValid = false ∧ s.outq = [] ∧
  s.frByteCnt = 0 ∧ s.statusWord = 0x00000010 ∧ s.cfg.outDepth = 16 ∧ s.cfg.padStripMax = 7

/-- A reset pulse, whatever the state and however many engine turns fall inside it: the pending job never completes, the
stream is dropped with no error recorded, every register of known reset value has it, and the parameters stay
(70_reset_and_hazards.md R250 to R252). That the host's own program and replies stay is the model's choice, log 11. -/
def Obligations.ResetPulseAbandonsJobAndStream : Prop :=
  ∀ (s : State) (inside : List Bool),
    let asserted := resetTurn true s
    let held := inside.foldl (fun u completes => if completes then engineTurn u else microTurn u) asserted
    let t := resetTurn false held
    held = asserted ∧ t.inReset = false ∧ t.cfg = s.cfg ∧ t.key = 0 ∧ t.din = 0 ∧ t.dout = 0 ∧ t.job = .none ∧
    t.keyValid = false ∧ t.frMode = .idle ∧ t.frDone = false ∧ t.errCode = .none ∧ t.errOvf = false ∧
    t.bufCount = 0 ∧ t.laValid = false ∧ t.outq = [] ∧ t.frByteCnt = 0 ∧
    t.hostProg = s.hostProg ∧ t.replies = s.replies ∧ t.turns = s.turns

/-! ## Invariants and whole-machine rules -/

/-- Every step keeps the invariant, from every state that meets it (10_state.md R48). The added clauses of the invariant
(room and an empty chunk while a framer job is pending, a session while a block job is) follow from
43_stream_framer.md R173 and R176 and make R48 inductive. -/
def Obligations.EveryStepKeepsTheInvariant : Prop :=
  ∀ s t : State, s.Inv → step s = .next t → t.Inv

/-- The reset state meets the invariant, with any legal parameters. -/
def Obligations.ResetMeetsTheInvariant : Prop :=
  ∀ c : Config, c.wf = true → ({ State.reset with cfg := c }).Inv

/-- The seven invariants hold in every state a run from reset reaches, whatever the parameters, the host's operations and
the order of turns (10_state.md R48). -/
def Obligations.ReachableStatesMeetR48 : Prop :=
  ∀ (c : Config) (ops : List HostOp) (turns : List Turn) (n : Nat) (t : State), c.wf = true →
    core.run n { State.reset with cfg := c, hostProg := ops, turns := turns } = .next t → t.SpecInv

/-- `KS` changes only when the completion step of `KEYSET` writes all sixteen subkeys, or at a reset (10_state.md R40). -/
def Obligations.OnlyKeysetCompletionWritesSubkeys : Prop :=
  ∀ s t : State, step s = .next t → t.ks ≠ s.ks →
    (s.job = .keyset ∧ t.job = .none ∧ t.ks = keySchedule s.jin ∧ t.keyValid = true) ∨
    (s.inReset = true ∧ t.inReset = false)

/-- `DOUT` changes only when the completion step of `ENCB` or `DECB` writes it, or at a reset (10_state.md R32). -/
def Obligations.OnlyBlockCompletionWritesDout : Prop :=
  ∀ s t : State, step s = .next t → t.dout ≠ s.dout →
    (s.job = .encb ∧ t.job = .none ∧ t.dout = encrypt s.ks s.jin) ∨
    (s.job = .decb ∧ t.job = .none ∧ t.dout = decrypt s.ks s.jin) ∨
    (s.inReset = true ∧ t.inReset = false)

/-- `FR_BYTECNT` changes only in a step that takes the host's write of `CMD` that pushes a byte or opens a stream, by 1 or
to 0, or at a reset (10_state.md R35). -/
def Obligations.OnlyPushAndOpenChangeTheByteCount : Prop :=
  ∀ s t : State, step s = .next t → t.frByteCnt ≠ s.frByteCnt →
    (∃ i data rest, s.hostProg = .wr (s.cfg.base + Reg.cmd.offset) .w32 data :: rest ∧ t.hostProg = rest ∧
      decode (data.setWidth 32) = .ok i ∧
      ((∃ b, i = .frPush b ∧ t.frByteCnt = s.frByteCnt + 1) ∨ (i ∈ [.frOpenEnc, .frOpenDec] ∧ t.frByteCnt = 0))) ∨
    (s.inReset = true ∧ t.inReset = false ∧ t.frByteCnt = 0)

/-- While a job is pending no other is accepted: a step leaves the job and its latched operand as they are, or ends it,
and a write of `CMD` then records `ERR_BUSY` and nothing else (10_state.md R23, 70_reset_and_hazards.md R255). -/
def Obligations.PendingJobIsNeverReplaced : Prop :=
  (∀ s t : State, s.busy = true → step s = .next t → t.busy = true → t.job = s.job ∧ t.jin = s.jin) ∧
  ∀ (s : State) (w : Word), s.busy = true →
    writeReg .cmd w s =
      .next { s with errCode := recordedCode s.errCode .busy, errOvf := s.errOvf || s.errCode != .none }

/-- No step changes the parameters, so `ID` and `CONFIG` read the same for ever (10_state.md R33). -/
def Obligations.ParametersNeverChange : Prop :=
  ∀ s t : State, step s = .next t →
    t.cfg = s.cfg ∧ (readReg .id t).1 = (readReg .id s).1 ∧ (readReg .config t).1 = (readReg .config s).1

/-! ## Progress and whole sequences -/

/-- An accepted job completes: from any state with a job pending and nothing disturbing ahead, within one step more than
the turns listed, the job has ended (70_reset_and_hazards.md R259). That a listed turn is one step, and the engine moves
when none is listed, is the model's form of fairness, log 4. -/
def Obligations.PendingJobCompletes : Prop :=
  ∀ s : State, s.busy = true → s.undisturbed = true →
    ∃ n t, n ≤ s.turns.length + 1 ∧ core.run n s = .next t ∧ t.busy = false

/-- `SETKEY k` and then `ENC64 m`, or `DEC64 m`, under every order of host and engine turns, leave the DES transform of
`m` under `k` in `DOUT` with the error record as it was, and its two halves are the last two words the host reads
(30_encoding.md R87). The model's own: the order of turns once `turns` is used up, on which it rests that the program
ends (log 4), the words read as `replies` (log 13), and a polling loop as one host item (log 18). -/
def Obligations.SetKeyThenBlockUnderEveryInterleaving : Prop :=
  ∀ (s : State) (k m : Block) (encrypting : Bool), s.Inv → s.busy = false → s.frMode = .idle →
    s.hostProg = (Pseudo.setKey k).expand s.cfg ++ (if encrypting then Pseudo.enc64 m else Pseudo.dec64 m).expand s.cfg →
    s.undisturbed = true →
    ∃ n t replies, core.run n s = .next t ∧ t.hostProg = [] ∧ t.busy = false ∧ t.keyValid = true ∧
      t.errCode = s.errCode ∧ t.errOvf = s.errOvf ∧
      t.dout = (if encrypting then encrypt (keySchedule k) m else decrypt (keySchedule k) m) ∧
      t.replies = replies ++ [⟨s.cfg.base + 0x18, t.dout.extractLsb' 32 32⟩, ⟨s.cfg.base + 0x1C, t.dout.extractLsb' 0 32⟩]

/-- One whole ENC stream under every order of host and engine turns: the bytes the host drains are
`FrameEncrypt(KS, M)`, the stream ends successfully with the error record as it was, and the byte count is the stream's
length (43_stream_framer.md R181, 70_reset_and_hazards.md R261). The model's own: the order of turns once `turns` is used
up, on which it rests that the program ends (log 4), the words read as `replies` (log 13), and a polling loop as one host
item (log 18). -/
def Obligations.EncStreamIsFrameEncrypt : Prop :=
  ∀ (s : State) (m : List Byte), s.Inv → s.busy = false → s.keyValid = true → s.frMode = .idle → s.outq = [] →
    s.replies = [] → s.hostProg = streamOps s.cfg .frOpenEnc m → s.undisturbed = true →
    ∃ n t, core.run n s = .next t ∧ t.hostProg = [] ∧ t.streamEnded = true ∧
      t.errCode = s.errCode ∧ t.errOvf = s.errOvf ∧ drainedBytes s.cfg t.replies = frameEncrypt s.ks m ∧
      t.frByteCnt = BitVec.ofNat 32 m.length

/-- One whole DEC stream of positive length divisible by 8 under every order of host and engine turns: the bytes the host
drains are `FrameDecrypt(KS, X)`; of any other length it ends with `ERR_LENGTH` (43_stream_framer.md R181,
70_reset_and_hazards.md R261). The model's own: the order of turns once `turns` is used up, on which it rests that the
program ends (log 4), the words read as `replies` (log 13), and a polling loop as one host item (log 18). -/
def Obligations.DecStreamIsFrameDecrypt : Prop :=
  ∀ (s : State) (x : List Byte), s.Inv → s.busy = false → s.keyValid = true → s.frMode = .idle → s.outq = [] →
    s.errCode = .none → s.replies = [] → s.hostProg = streamOps s.cfg .frOpenDec x → s.undisturbed = true →
    ∃ n t, core.run n s = .next t ∧ t.hostProg = [] ∧ t.frByteCnt = BitVec.ofNat 32 x.length ∧
      (∀ out, frameDecrypt s.cfg.padStripMax s.ks x = some out →
        t.streamEnded = true ∧ t.errCode = .none ∧ drainedBytes s.cfg t.replies = out) ∧
      (frameDecrypt s.cfg.padStripMax s.ks x = none → t.streamFailed = true ∧ t.errCode = .length) ∧
      (frameDecrypt s.cfg.padStripMax s.ks x = none ↔ x.length = 0 ∨ x.length % 8 ≠ 0)

/-- The length of a framed stream and what its decryption gives back, for either value of `PAD_STRIP_MAX`
(43_stream_framer.md R182). -/
def Obligations.FrameLengthAndRoundTrip : Prop :=
  ∀ (ks : Subkeys) (m : List Byte),
    (frameEncrypt ks m).length = 8 * (m.length / 8 + 1) ∧
    (m.length % 8 ≠ 0 → ∀ limit, limit = 7 ∨ limit = 8 → frameDecrypt limit ks (frameEncrypt ks m) = some m) ∧
    (m.length % 8 = 0 → frameDecrypt 7 ks (frameEncrypt ks m) = some (m ++ List.replicate 8 0x08)) ∧
    frameDecrypt 8 ks (frameEncrypt ks m) = some m

/-- Equal chunks give equal ciphertext blocks, wherever they stand in one stream or two, and a stream whose length is a
multiple of 8 ends in the encryption of eight `0x08` bytes (43_stream_framer.md R183). -/
def Obligations.EqualChunksGiveEqualBlocks : Prop :=
  ∀ (ks : Subkeys) (m m' : List Byte),
    (∀ i j, i ≤ m.length / 8 → j ≤ m'.length / 8 → streamBlock m i = streamBlock m' j →
      ((frameEncrypt ks m).drop (8 * i)).take 8 = ((frameEncrypt ks m').drop (8 * j)).take 8) ∧
    (m.length % 8 = 0 → ∃ front, frameEncrypt ks m = front ++ blockBytes (encrypt ks 0x0808080808080808))

/-- The known false positive: a one-block DEC stream whose plaintext, made with `ENCB`, ends in `p` bytes of value `p` loses
those bytes (43_stream_framer.md R184). -/
def Obligations.PaddingAmbiguityStripsPlaintext : Prop :=
  ∀ (ks : Subkeys) (limit p : Nat) (b : Block), limit = 7 ∨ limit = 8 → 1 ≤ p → p ≤ limit →
    (∀ j, 8 - p ≤ j → j ≤ 7 → (byteOf b j).toNat = p) →
    frameDecrypt limit ks (blockBytes (encrypt ks b)) = some ((blockBytes b).take (8 - p))
end

