-- ==== Sys2Proof/Laws/Decode.lean ====
section
/-! SUPPORT. Splitting a command word into fields and putting it together are inverse (30_encoding.md R80). -/

namespace Sys2Proof

theorem fieldsOf_wordOf (c : CmdWord) : fieldsOf (wordOf c) = c := by
  obtain ⟨op, arg, rsv⟩ := c
  simp only [fieldsOf, wordOf, CmdWord.mk.injEq]
  refine ⟨?_, ?_, ?_⟩ <;> ext i hi <;>
    simp only [BitVec.getElem_extractLsb', BitVec.getLsbD_append] <;> grind

theorem wordOf_fieldsOf (w : Word) : wordOf (fieldsOf w) = w := by
  simp only [fieldsOf, wordOf]
  ext i hi
  simp only [BitVec.getElem_append, BitVec.getElem_extractLsb']
  split
  · simp [BitVec.getLsbD_eq_getElem, *]
  · split <;> grind

/-- Two command words with the same fields are the same word. -/
theorem fieldsOf_injective (v w : Word) (h : fieldsOf v = fieldsOf w) : v = w := by
  rw [← wordOf_fieldsOf v, h, wordOf_fieldsOf]

theorem fieldsOf_encode (i : Instr) : fieldsOf (encode i) = encodeFields i := fieldsOf_wordOf _

end Sys2Proof
end

