-- ==== Sys2Proof/Laws/State.lean ====
section
/-! SUPPORT. For each shared operation that updates the state, what each field holds after it: one equation a
field, so that no later proof unfolds a record update. -/

namespace Sys2Proof.Machine

/-! `recordError` -/

@[simp] theorem recordError_cfg (code : ErrCode) (s : State) : (recordError code s).cfg = s.cfg := rfl
@[simp] theorem recordError_key (code : ErrCode) (s : State) : (recordError code s).key = s.key := rfl
@[simp] theorem recordError_din (code : ErrCode) (s : State) : (recordError code s).din = s.din := rfl
@[simp] theorem recordError_dout (code : ErrCode) (s : State) : (recordError code s).dout = s.dout := rfl
@[simp] theorem recordError_keyValid (code : ErrCode) (s : State) : (recordError code s).keyValid = s.keyValid := rfl
@[simp] theorem recordError_frMode (code : ErrCode) (s : State) : (recordError code s).frMode = s.frMode := rfl
@[simp] theorem recordError_frDone (code : ErrCode) (s : State) : (recordError code s).frDone = s.frDone := rfl
@[simp] theorem recordError_errCode (code : ErrCode) (s : State) : (recordError code s).errCode = recordedCode s.errCode code := rfl
@[simp] theorem recordError_errOvf (code : ErrCode) (s : State) : (recordError code s).errOvf = (s.errOvf || s.errCode != .none) := rfl
@[simp] theorem recordError_bufCount (code : ErrCode) (s : State) : (recordError code s).bufCount = s.bufCount := rfl
@[simp] theorem recordError_laValid (code : ErrCode) (s : State) : (recordError code s).laValid = s.laValid := rfl
@[simp] theorem recordError_frByteCnt (code : ErrCode) (s : State) : (recordError code s).frByteCnt = s.frByteCnt := rfl
@[simp] theorem recordError_outq (code : ErrCode) (s : State) : (recordError code s).outq = s.outq := rfl
@[simp] theorem recordError_ks (code : ErrCode) (s : State) : (recordError code s).ks = s.ks := rfl
@[simp] theorem recordError_c (code : ErrCode) (s : State) : (recordError code s).c = s.c := rfl
@[simp] theorem recordError_d (code : ErrCode) (s : State) : (recordError code s).d = s.d := rfl
@[simp] theorem recordError_l (code : ErrCode) (s : State) : (recordError code s).l = s.l := rfl
@[simp] theorem recordError_r (code : ErrCode) (s : State) : (recordError code s).r = s.r := rfl
@[simp] theorem recordError_rc (code : ErrCode) (s : State) : (recordError code s).rc = s.rc := rfl
@[simp] theorem recordError_job (code : ErrCode) (s : State) : (recordError code s).job = s.job := rfl
@[simp] theorem recordError_jin (code : ErrCode) (s : State) : (recordError code s).jin = s.jin := rfl
@[simp] theorem recordError_buf (code : ErrCode) (s : State) : (recordError code s).buf = s.buf := rfl
@[simp] theorem recordError_la (code : ErrCode) (s : State) : (recordError code s).la = s.la := rfl
@[simp] theorem recordError_started (code : ErrCode) (s : State) : (recordError code s).started = s.started := rfl
@[simp] theorem recordError_ksNext (code : ErrCode) (s : State) : (recordError code s).ksNext = s.ksNext := rfl
@[simp] theorem recordError_inReset (code : ErrCode) (s : State) : (recordError code s).inReset = s.inReset := rfl
@[simp] theorem recordError_turns (code : ErrCode) (s : State) : (recordError code s).turns = s.turns := rfl
@[simp] theorem recordError_hostProg (code : ErrCode) (s : State) : (recordError code s).hostProg = s.hostProg := rfl
@[simp] theorem recordError_replies (code : ErrCode) (s : State) : (recordError code s).replies = s.replies := rfl
@[simp] theorem recordError_draws (code : ErrCode) (s : State) : (recordError code s).draws = s.draws := rfl

/-! `raiseError` -/

@[simp] theorem raiseError_cfg (code : ErrCode) (s : State) : (raiseError code s).cfg = s.cfg := rfl
@[simp] theorem raiseError_key (code : ErrCode) (s : State) : (raiseError code s).key = s.key := rfl
@[simp] theorem raiseError_din (code : ErrCode) (s : State) : (raiseError code s).din = s.din := rfl
@[simp] theorem raiseError_dout (code : ErrCode) (s : State) : (raiseError code s).dout = s.dout := rfl
@[simp] theorem raiseError_keyValid (code : ErrCode) (s : State) : (raiseError code s).keyValid = s.keyValid := rfl
@[simp] theorem raiseError_frMode (code : ErrCode) (s : State) : (raiseError code s).frMode = s.frMode := rfl
@[simp] theorem raiseError_frDone (code : ErrCode) (s : State) : (raiseError code s).frDone = s.frDone := rfl
@[simp] theorem raiseError_errCode (code : ErrCode) (s : State) : (raiseError code s).errCode = recordedCode s.errCode code := rfl
@[simp] theorem raiseError_errOvf (code : ErrCode) (s : State) : (raiseError code s).errOvf = (s.errOvf || s.errCode != .none) := rfl
@[simp] theorem raiseError_bufCount (code : ErrCode) (s : State) : (raiseError code s).bufCount = s.bufCount := rfl
@[simp] theorem raiseError_laValid (code : ErrCode) (s : State) : (raiseError code s).laValid = s.laValid := rfl
@[simp] theorem raiseError_frByteCnt (code : ErrCode) (s : State) : (raiseError code s).frByteCnt = s.frByteCnt := rfl
@[simp] theorem raiseError_outq (code : ErrCode) (s : State) : (raiseError code s).outq = s.outq := rfl
@[simp] theorem raiseError_ks (code : ErrCode) (s : State) : (raiseError code s).ks = s.ks := rfl
@[simp] theorem raiseError_c (code : ErrCode) (s : State) : (raiseError code s).c = s.c := rfl
@[simp] theorem raiseError_d (code : ErrCode) (s : State) : (raiseError code s).d = s.d := rfl
@[simp] theorem raiseError_l (code : ErrCode) (s : State) : (raiseError code s).l = s.l := rfl
@[simp] theorem raiseError_r (code : ErrCode) (s : State) : (raiseError code s).r = s.r := rfl
@[simp] theorem raiseError_rc (code : ErrCode) (s : State) : (raiseError code s).rc = s.rc := rfl
@[simp] theorem raiseError_job (code : ErrCode) (s : State) : (raiseError code s).job = s.job := rfl
@[simp] theorem raiseError_jin (code : ErrCode) (s : State) : (raiseError code s).jin = s.jin := rfl
@[simp] theorem raiseError_buf (code : ErrCode) (s : State) : (raiseError code s).buf = s.buf := rfl
@[simp] theorem raiseError_la (code : ErrCode) (s : State) : (raiseError code s).la = s.la := rfl
@[simp] theorem raiseError_started (code : ErrCode) (s : State) : (raiseError code s).started = s.started := rfl
@[simp] theorem raiseError_ksNext (code : ErrCode) (s : State) : (raiseError code s).ksNext = s.ksNext := rfl
@[simp] theorem raiseError_inReset (code : ErrCode) (s : State) : (raiseError code s).inReset = s.inReset := rfl
@[simp] theorem raiseError_turns (code : ErrCode) (s : State) : (raiseError code s).turns = s.turns := rfl
@[simp] theorem raiseError_hostProg (code : ErrCode) (s : State) : (raiseError code s).hostProg = s.hostProg := rfl
@[simp] theorem raiseError_replies (code : ErrCode) (s : State) : (raiseError code s).replies = s.replies := rfl
@[simp] theorem raiseError_draws (code : ErrCode) (s : State) : (raiseError code s).draws = s.draws := rfl

/-! `streamFatal` -/

@[simp] theorem streamFatal_cfg (code : ErrCode) (s : State) : (streamFatal code s).cfg = s.cfg := rfl
@[simp] theorem streamFatal_key (code : ErrCode) (s : State) : (streamFatal code s).key = s.key := rfl
@[simp] theorem streamFatal_din (code : ErrCode) (s : State) : (streamFatal code s).din = s.din := rfl
@[simp] theorem streamFatal_dout (code : ErrCode) (s : State) : (streamFatal code s).dout = s.dout := rfl
@[simp] theorem streamFatal_keyValid (code : ErrCode) (s : State) : (streamFatal code s).keyValid = s.keyValid := rfl
@[simp] theorem streamFatal_frMode (code : ErrCode) (s : State) : (streamFatal code s).frMode = .idle := rfl
@[simp] theorem streamFatal_frDone (code : ErrCode) (s : State) : (streamFatal code s).frDone = false := rfl
@[simp] theorem streamFatal_errCode (code : ErrCode) (s : State) : (streamFatal code s).errCode = recordedCode s.errCode code := rfl
@[simp] theorem streamFatal_errOvf (code : ErrCode) (s : State) : (streamFatal code s).errOvf = (s.errOvf || s.errCode != .none) := rfl
@[simp] theorem streamFatal_bufCount (code : ErrCode) (s : State) : (streamFatal code s).bufCount = 0 := rfl
@[simp] theorem streamFatal_laValid (code : ErrCode) (s : State) : (streamFatal code s).laValid = false := rfl
@[simp] theorem streamFatal_frByteCnt (code : ErrCode) (s : State) : (streamFatal code s).frByteCnt = s.frByteCnt := rfl
@[simp] theorem streamFatal_outq (code : ErrCode) (s : State) : (streamFatal code s).outq = [] := rfl
@[simp] theorem streamFatal_ks (code : ErrCode) (s : State) : (streamFatal code s).ks = s.ks := rfl
@[simp] theorem streamFatal_c (code : ErrCode) (s : State) : (streamFatal code s).c = s.c := rfl
@[simp] theorem streamFatal_d (code : ErrCode) (s : State) : (streamFatal code s).d = s.d := rfl
@[simp] theorem streamFatal_l (code : ErrCode) (s : State) : (streamFatal code s).l = s.l := rfl
@[simp] theorem streamFatal_r (code : ErrCode) (s : State) : (streamFatal code s).r = s.r := rfl
@[simp] theorem streamFatal_rc (code : ErrCode) (s : State) : (streamFatal code s).rc = s.rc := rfl
@[simp] theorem streamFatal_job (code : ErrCode) (s : State) : (streamFatal code s).job = s.job := rfl
@[simp] theorem streamFatal_jin (code : ErrCode) (s : State) : (streamFatal code s).jin = s.jin := rfl
@[simp] theorem streamFatal_buf (code : ErrCode) (s : State) : (streamFatal code s).buf = s.buf := rfl
@[simp] theorem streamFatal_la (code : ErrCode) (s : State) : (streamFatal code s).la = s.la := rfl
@[simp] theorem streamFatal_started (code : ErrCode) (s : State) : (streamFatal code s).started = s.started := rfl
@[simp] theorem streamFatal_ksNext (code : ErrCode) (s : State) : (streamFatal code s).ksNext = s.ksNext := rfl
@[simp] theorem streamFatal_inReset (code : ErrCode) (s : State) : (streamFatal code s).inReset = s.inReset := rfl
@[simp] theorem streamFatal_turns (code : ErrCode) (s : State) : (streamFatal code s).turns = s.turns := rfl
@[simp] theorem streamFatal_hostProg (code : ErrCode) (s : State) : (streamFatal code s).hostProg = s.hostProg := rfl
@[simp] theorem streamFatal_replies (code : ErrCode) (s : State) : (streamFatal code s).replies = s.replies := rfl
@[simp] theorem streamFatal_draws (code : ErrCode) (s : State) : (streamFatal code s).draws = s.draws := rfl

/-! `latchJob` -/

@[simp] theorem latchJob_cfg (j : Job) (x : Block) (s : State) : (latchJob j x s).cfg = s.cfg := rfl
@[simp] theorem latchJob_key (j : Job) (x : Block) (s : State) : (latchJob j x s).key = s.key := rfl
@[simp] theorem latchJob_din (j : Job) (x : Block) (s : State) : (latchJob j x s).din = s.din := rfl
@[simp] theorem latchJob_dout (j : Job) (x : Block) (s : State) : (latchJob j x s).dout = s.dout := rfl
@[simp] theorem latchJob_keyValid (j : Job) (x : Block) (s : State) : (latchJob j x s).keyValid = s.keyValid := rfl
@[simp] theorem latchJob_frMode (j : Job) (x : Block) (s : State) : (latchJob j x s).frMode = s.frMode := rfl
@[simp] theorem latchJob_frDone (j : Job) (x : Block) (s : State) : (latchJob j x s).frDone = s.frDone := rfl
@[simp] theorem latchJob_errCode (j : Job) (x : Block) (s : State) : (latchJob j x s).errCode = s.errCode := rfl
@[simp] theorem latchJob_errOvf (j : Job) (x : Block) (s : State) : (latchJob j x s).errOvf = s.errOvf := rfl
@[simp] theorem latchJob_bufCount (j : Job) (x : Block) (s : State) : (latchJob j x s).bufCount = s.bufCount := rfl
@[simp] theorem latchJob_laValid (j : Job) (x : Block) (s : State) : (latchJob j x s).laValid = s.laValid := rfl
@[simp] theorem latchJob_frByteCnt (j : Job) (x : Block) (s : State) : (latchJob j x s).frByteCnt = s.frByteCnt := rfl
@[simp] theorem latchJob_outq (j : Job) (x : Block) (s : State) : (latchJob j x s).outq = s.outq := rfl
@[simp] theorem latchJob_ks (j : Job) (x : Block) (s : State) : (latchJob j x s).ks = s.ks := rfl
@[simp] theorem latchJob_c (j : Job) (x : Block) (s : State) : (latchJob j x s).c = s.c := rfl
@[simp] theorem latchJob_d (j : Job) (x : Block) (s : State) : (latchJob j x s).d = s.d := rfl
@[simp] theorem latchJob_l (j : Job) (x : Block) (s : State) : (latchJob j x s).l = s.l := rfl
@[simp] theorem latchJob_r (j : Job) (x : Block) (s : State) : (latchJob j x s).r = s.r := rfl
@[simp] theorem latchJob_rc (j : Job) (x : Block) (s : State) : (latchJob j x s).rc = s.rc := rfl
@[simp] theorem latchJob_job (j : Job) (x : Block) (s : State) : (latchJob j x s).job = j := rfl
@[simp] theorem latchJob_jin (j : Job) (x : Block) (s : State) : (latchJob j x s).jin = x := rfl
@[simp] theorem latchJob_buf (j : Job) (x : Block) (s : State) : (latchJob j x s).buf = s.buf := rfl
@[simp] theorem latchJob_la (j : Job) (x : Block) (s : State) : (latchJob j x s).la = s.la := rfl
@[simp] theorem latchJob_started (j : Job) (x : Block) (s : State) : (latchJob j x s).started = false := rfl
@[simp] theorem latchJob_ksNext (j : Job) (x : Block) (s : State) : (latchJob j x s).ksNext = s.ksNext := rfl
@[simp] theorem latchJob_inReset (j : Job) (x : Block) (s : State) : (latchJob j x s).inReset = s.inReset := rfl
@[simp] theorem latchJob_turns (j : Job) (x : Block) (s : State) : (latchJob j x s).turns = s.turns := rfl
@[simp] theorem latchJob_hostProg (j : Job) (x : Block) (s : State) : (latchJob j x s).hostProg = s.hostProg := rfl
@[simp] theorem latchJob_replies (j : Job) (x : Block) (s : State) : (latchJob j x s).replies = s.replies := rfl
@[simp] theorem latchJob_draws (j : Job) (x : Block) (s : State) : (latchJob j x s).draws = s.draws := rfl

/-! `finishJob` -/

@[simp] theorem finishJob_cfg (s : State) : (finishJob s).cfg = s.cfg := rfl
@[simp] theorem finishJob_key (s : State) : (finishJob s).key = s.key := rfl
@[simp] theorem finishJob_din (s : State) : (finishJob s).din = s.din := rfl
@[simp] theorem finishJob_dout (s : State) : (finishJob s).dout = s.dout := rfl
@[simp] theorem finishJob_keyValid (s : State) : (finishJob s).keyValid = s.keyValid := rfl
@[simp] theorem finishJob_frMode (s : State) : (finishJob s).frMode = s.frMode := rfl
@[simp] theorem finishJob_frDone (s : State) : (finishJob s).frDone = s.frDone := rfl
@[simp] theorem finishJob_errCode (s : State) : (finishJob s).errCode = s.errCode := rfl
@[simp] theorem finishJob_errOvf (s : State) : (finishJob s).errOvf = s.errOvf := rfl
@[simp] theorem finishJob_bufCount (s : State) : (finishJob s).bufCount = s.bufCount := rfl
@[simp] theorem finishJob_laValid (s : State) : (finishJob s).laValid = s.laValid := rfl
@[simp] theorem finishJob_frByteCnt (s : State) : (finishJob s).frByteCnt = s.frByteCnt := rfl
@[simp] theorem finishJob_outq (s : State) : (finishJob s).outq = s.outq := rfl
@[simp] theorem finishJob_ks (s : State) : (finishJob s).ks = s.ks := rfl
@[simp] theorem finishJob_c (s : State) : (finishJob s).c = s.c := rfl
@[simp] theorem finishJob_d (s : State) : (finishJob s).d = s.d := rfl
@[simp] theorem finishJob_l (s : State) : (finishJob s).l = s.l := rfl
@[simp] theorem finishJob_r (s : State) : (finishJob s).r = s.r := rfl
@[simp] theorem finishJob_rc (s : State) : (finishJob s).rc = s.rc := rfl
@[simp] theorem finishJob_job (s : State) : (finishJob s).job = .none := rfl
@[simp] theorem finishJob_jin (s : State) : (finishJob s).jin = s.jin := rfl
@[simp] theorem finishJob_buf (s : State) : (finishJob s).buf = s.buf := rfl
@[simp] theorem finishJob_la (s : State) : (finishJob s).la = s.la := rfl
@[simp] theorem finishJob_started (s : State) : (finishJob s).started = false := rfl
@[simp] theorem finishJob_ksNext (s : State) : (finishJob s).ksNext = s.ksNext := rfl
@[simp] theorem finishJob_inReset (s : State) : (finishJob s).inReset = s.inReset := rfl
@[simp] theorem finishJob_turns (s : State) : (finishJob s).turns = s.turns := rfl
@[simp] theorem finishJob_hostProg (s : State) : (finishJob s).hostProg = s.hostProg := rfl
@[simp] theorem finishJob_replies (s : State) : (finishJob s).replies = s.replies := rfl
@[simp] theorem finishJob_draws (s : State) : (finishJob s).draws = s.draws := rfl

/-! `pushOut` -/

@[simp] theorem pushOut_cfg (bytes : List Byte) (s : State) : (pushOut bytes s).cfg = s.cfg := rfl
@[simp] theorem pushOut_key (bytes : List Byte) (s : State) : (pushOut bytes s).key = s.key := rfl
@[simp] theorem pushOut_din (bytes : List Byte) (s : State) : (pushOut bytes s).din = s.din := rfl
@[simp] theorem pushOut_dout (bytes : List Byte) (s : State) : (pushOut bytes s).dout = s.dout := rfl
@[simp] theorem pushOut_keyValid (bytes : List Byte) (s : State) : (pushOut bytes s).keyValid = s.keyValid := rfl
@[simp] theorem pushOut_frMode (bytes : List Byte) (s : State) : (pushOut bytes s).frMode = s.frMode := rfl
@[simp] theorem pushOut_frDone (bytes : List Byte) (s : State) : (pushOut bytes s).frDone = s.frDone := rfl
@[simp] theorem pushOut_errCode (bytes : List Byte) (s : State) : (pushOut bytes s).errCode = s.errCode := rfl
@[simp] theorem pushOut_errOvf (bytes : List Byte) (s : State) : (pushOut bytes s).errOvf = s.errOvf := rfl
@[simp] theorem pushOut_bufCount (bytes : List Byte) (s : State) : (pushOut bytes s).bufCount = s.bufCount := rfl
@[simp] theorem pushOut_laValid (bytes : List Byte) (s : State) : (pushOut bytes s).laValid = s.laValid := rfl
@[simp] theorem pushOut_frByteCnt (bytes : List Byte) (s : State) : (pushOut bytes s).frByteCnt = s.frByteCnt := rfl
@[simp] theorem pushOut_outq (bytes : List Byte) (s : State) : (pushOut bytes s).outq = s.outq ++ bytes := rfl
@[simp] theorem pushOut_ks (bytes : List Byte) (s : State) : (pushOut bytes s).ks = s.ks := rfl
@[simp] theorem pushOut_c (bytes : List Byte) (s : State) : (pushOut bytes s).c = s.c := rfl
@[simp] theorem pushOut_d (bytes : List Byte) (s : State) : (pushOut bytes s).d = s.d := rfl
@[simp] theorem pushOut_l (bytes : List Byte) (s : State) : (pushOut bytes s).l = s.l := rfl
@[simp] theorem pushOut_r (bytes : List Byte) (s : State) : (pushOut bytes s).r = s.r := rfl
@[simp] theorem pushOut_rc (bytes : List Byte) (s : State) : (pushOut bytes s).rc = s.rc := rfl
@[simp] theorem pushOut_job (bytes : List Byte) (s : State) : (pushOut bytes s).job = s.job := rfl
@[simp] theorem pushOut_jin (bytes : List Byte) (s : State) : (pushOut bytes s).jin = s.jin := rfl
@[simp] theorem pushOut_buf (bytes : List Byte) (s : State) : (pushOut bytes s).buf = s.buf := rfl
@[simp] theorem pushOut_la (bytes : List Byte) (s : State) : (pushOut bytes s).la = s.la := rfl
@[simp] theorem pushOut_started (bytes : List Byte) (s : State) : (pushOut bytes s).started = s.started := rfl
@[simp] theorem pushOut_ksNext (bytes : List Byte) (s : State) : (pushOut bytes s).ksNext = s.ksNext := rfl
@[simp] theorem pushOut_inReset (bytes : List Byte) (s : State) : (pushOut bytes s).inReset = s.inReset := rfl
@[simp] theorem pushOut_turns (bytes : List Byte) (s : State) : (pushOut bytes s).turns = s.turns := rfl
@[simp] theorem pushOut_hostProg (bytes : List Byte) (s : State) : (pushOut bytes s).hostProg = s.hostProg := rfl
@[simp] theorem pushOut_replies (bytes : List Byte) (s : State) : (pushOut bytes s).replies = s.replies := rfl
@[simp] theorem pushOut_draws (bytes : List Byte) (s : State) : (pushOut bytes s).draws = s.draws := rfl

/-! `receive` -/

@[simp] theorem receive_cfg (addr : Nat) (data : Word) (s : State) : (receive addr data s).cfg = s.cfg := rfl
@[simp] theorem receive_key (addr : Nat) (data : Word) (s : State) : (receive addr data s).key = s.key := rfl
@[simp] theorem receive_din (addr : Nat) (data : Word) (s : State) : (receive addr data s).din = s.din := rfl
@[simp] theorem receive_dout (addr : Nat) (data : Word) (s : State) : (receive addr data s).dout = s.dout := rfl
@[simp] theorem receive_keyValid (addr : Nat) (data : Word) (s : State) : (receive addr data s).keyValid = s.keyValid := rfl
@[simp] theorem receive_frMode (addr : Nat) (data : Word) (s : State) : (receive addr data s).frMode = s.frMode := rfl
@[simp] theorem receive_frDone (addr : Nat) (data : Word) (s : State) : (receive addr data s).frDone = s.frDone := rfl
@[simp] theorem receive_errCode (addr : Nat) (data : Word) (s : State) : (receive addr data s).errCode = s.errCode := rfl
@[simp] theorem receive_errOvf (addr : Nat) (data : Word) (s : State) : (receive addr data s).errOvf = s.errOvf := rfl
@[simp] theorem receive_bufCount (addr : Nat) (data : Word) (s : State) : (receive addr data s).bufCount = s.bufCount := rfl
@[simp] theorem receive_laValid (addr : Nat) (data : Word) (s : State) : (receive addr data s).laValid = s.laValid := rfl
@[simp] theorem receive_frByteCnt (addr : Nat) (data : Word) (s : State) : (receive addr data s).frByteCnt = s.frByteCnt := rfl
@[simp] theorem receive_outq (addr : Nat) (data : Word) (s : State) : (receive addr data s).outq = s.outq := rfl
@[simp] theorem receive_ks (addr : Nat) (data : Word) (s : State) : (receive addr data s).ks = s.ks := rfl
@[simp] theorem receive_c (addr : Nat) (data : Word) (s : State) : (receive addr data s).c = s.c := rfl
@[simp] theorem receive_d (addr : Nat) (data : Word) (s : State) : (receive addr data s).d = s.d := rfl
@[simp] theorem receive_l (addr : Nat) (data : Word) (s : State) : (receive addr data s).l = s.l := rfl
@[simp] theorem receive_r (addr : Nat) (data : Word) (s : State) : (receive addr data s).r = s.r := rfl
@[simp] theorem receive_rc (addr : Nat) (data : Word) (s : State) : (receive addr data s).rc = s.rc := rfl
@[simp] theorem receive_job (addr : Nat) (data : Word) (s : State) : (receive addr data s).job = s.job := rfl
@[simp] theorem receive_jin (addr : Nat) (data : Word) (s : State) : (receive addr data s).jin = s.jin := rfl
@[simp] theorem receive_buf (addr : Nat) (data : Word) (s : State) : (receive addr data s).buf = s.buf := rfl
@[simp] theorem receive_la (addr : Nat) (data : Word) (s : State) : (receive addr data s).la = s.la := rfl
@[simp] theorem receive_started (addr : Nat) (data : Word) (s : State) : (receive addr data s).started = s.started := rfl
@[simp] theorem receive_ksNext (addr : Nat) (data : Word) (s : State) : (receive addr data s).ksNext = s.ksNext := rfl
@[simp] theorem receive_inReset (addr : Nat) (data : Word) (s : State) : (receive addr data s).inReset = s.inReset := rfl
@[simp] theorem receive_turns (addr : Nat) (data : Word) (s : State) : (receive addr data s).turns = s.turns := rfl
@[simp] theorem receive_hostProg (addr : Nat) (data : Word) (s : State) : (receive addr data s).hostProg = s.hostProg := rfl
@[simp] theorem receive_replies (addr : Nat) (data : Word) (s : State) : (receive addr data s).replies = s.replies ++ [⟨addr, data⟩] := rfl
@[simp] theorem receive_draws (addr : Nat) (data : Word) (s : State) : (receive addr data s).draws = s.draws := rfl

/-! Views of `STATUS` that an operation leaves alone. -/

@[simp] theorem recordError_busy (code : ErrCode) (s : State) : (recordError code s).busy = s.busy := rfl
@[simp] theorem raiseError_busy (code : ErrCode) (s : State) : (raiseError code s).busy = s.busy := rfl
@[simp] theorem streamFatal_busy (code : ErrCode) (s : State) : (streamFatal code s).busy = s.busy := rfl
@[simp] theorem latchJob_busy (j : Job) (x : Block) (s : State) : (latchJob j x s).busy = j.isPending := rfl
@[simp] theorem finishJob_busy (s : State) : (finishJob s).busy = false := rfl
@[simp] theorem pushOut_busy (bytes : List Byte) (s : State) : (pushOut bytes s).busy = s.busy := rfl
@[simp] theorem receive_busy (addr : Nat) (data : Word) (s : State) : (receive addr data s).busy = s.busy := rfl

end Sys2Proof.Machine
end

