-- ==== Sys2Proof/Laws/Ops.lean ====
section
/-! SUPPORT. What the shared operations can do, said once: the checks of a command, its acceptance, the error
record, and the output FIFO. -/

namespace Sys2Proof.Machine

theorem isPending_iff (j : Job) : j.isPending = true ↔ j ≠ .none := by cases j <;> decide

theorem not_isPending_iff (j : Job) : j.isPending = false ↔ j = .none := by cases j <;> decide

theorem busy_eq_false_iff (s : State) : s.busy = false ↔ s.job = .none := not_isPending_iff s.job

theorem busy_eq_true_iff (s : State) : s.busy = true ↔ s.job ≠ .none := isPending_iff s.job

@[simp] theorem firstError_nil : firstError [] = none := rfl

@[simp] theorem firstError_cons (b : Bool) (code : ErrCode) (checks : List (Bool × ErrCode)) :
    firstError ((b, code) :: checks) = if b then some code else firstError checks := by cases b <;> rfl

/-- A code that fires stands in the list with a check that fires. -/
theorem mem_of_firstError (checks : List (Bool × ErrCode)) (code : ErrCode) (h : firstError checks = some code) :
    (true, code) ∈ checks := by
  induction checks with
  | nil => cases h
  | cons c checks ih =>
    obtain ⟨b, code'⟩ := c
    cases b with
    | true => cases h; exact List.mem_cons_self
    | false => exact List.mem_cons_of_mem _ (ih h)

/-- Acceptance while a job is pending records `ERR_BUSY`. -/
theorem accept_of_busy (checks : List (Bool × ErrCode)) (effect : State → State) (s : State) (h : s.busy = true) :
    accept checks effect s = .next (raiseError .busy s) := by simp [accept, h]

/-- Acceptance when a check fires: its code is recorded and nothing else happens. -/
theorem accept_of_error (checks : List (Bool × ErrCode)) (effect : State → State) (s : State) (code : ErrCode)
    (hb : s.busy = false) (h : firstError checks = some code) :
    accept checks effect s = .next (raiseError code s) := by simp [accept, hb, h]

/-- Acceptance when no check fires: the effect. -/
theorem accept_of_ok (checks : List (Bool × ErrCode)) (effect : State → State) (s : State)
    (hb : s.busy = false) (h : firstError checks = none) :
    accept checks effect s = .next (effect s) := by simp [accept, hb, h]

/-- All that acceptance can do: it always answers a next state, which is the recorded error or the effect. -/
theorem accept_cases (checks : List (Bool × ErrCode)) (effect : State → State) (s : State) :
    (∃ code, firstError ((s.busy, .busy) :: checks) = some code ∧
      accept checks effect s = .next (raiseError code s)) ∨
    (s.busy = false ∧ firstError checks = none ∧ accept checks effect s = .next (effect s)) := by
  cases hb : s.busy with
  | true => exact .inl ⟨.busy, by simp, accept_of_busy checks effect s hb⟩
  | false =>
    cases he : firstError checks with
    | some code => exact .inl ⟨code, by simp [he], accept_of_error checks effect s code hb he⟩
    | none => exact .inr ⟨rfl, rfl, accept_of_ok checks effect s hb he⟩

theorem recordedCode_of_none (code : ErrCode) : recordedCode .none code = code := rfl

theorem recordedCode_ne_none (old code : ErrCode) (h : code ≠ .none) : recordedCode old code ≠ .none := by
  unfold recordedCode
  split
  · exact h
  · split <;> assumption

@[simp] theorem popOut_of_nil (s : State) (h : s.outq = []) : popOut s = (0, s) := by simp [popOut, h]

theorem popOut_of_cons (s : State) (b : Byte) (rest : List Byte) (h : s.outq = b :: rest) :
    popOut s = ((1#1 ++ b).setWidth 32, { s with outq := rest }) := by simp [popOut, h]

/-- A pop changes at most the output FIFO, and never lengthens it. -/
theorem popOut_state (s : State) :
    ∃ q, (popOut s).2 = { s with outq := q } ∧ q.length ≤ s.outq.length := by
  cases h : s.outq with
  | nil => exact ⟨s.outq, by rw [popOut_of_nil s h], by simp [h]⟩
  | cons b rest => exact ⟨rest, by simp [popOut, h], by simp⟩

theorem blockBytes_length (b : Block) : (blockBytes b).length = 8 := rfl

theorem stripLen_le (limit : Nat) (b : Block) : stripLen limit b ≤ 8 := by
  unfold stripLen
  simp only
  split <;> omega

end Sys2Proof.Machine
end

