-- ==== Sys2Proof/Laws/Window.lean ====
section
/-! SUPPORT. The register map, and when a bus access reaches its register. -/

namespace Sys2Proof.Machine

theorem regAt_offset (reg : Reg) : regAt reg.offset = reg := by cases reg <;> rfl

theorem offset_lt (reg : Reg) : reg.offset < 64 := by cases reg <;> decide

theorem offset_aligned (reg : Reg) : reg.offset % 4 = 0 := by cases reg <;> rfl

/-- A 32-bit access at a register's address is admitted. -/
theorem admits_reg (c : Config) (reg : Reg) : c.admits (c.base + reg.offset) .w32 = true := by
  have h := offset_lt reg
  have h' := offset_aligned reg
  simp [Config.admits, Config.inWindow, h, h']

/-- An admitted access outside reset reaches the register at its offset. -/
theorem access_of_admits (addr : Nat) (width : Width) (s : State) (reach : Reg → Result)
    (hr : s.inReset = false) (h : s.cfg.admits addr width = true) :
    access addr width s reach = reach (regAt (addr - s.cfg.base)) := by
  simp only [Config.admits, Bool.and_eq_true, beq_iff_eq] at h
  simp [access, hr, h.1.1, h.1.2, h.2]

/-- A 32-bit access at a register's address reaches that register. -/
theorem access_reg (reg : Reg) (s : State) (reach : Reg → Result) (hr : s.inReset = false) :
    access (s.cfg.base + reg.offset) .w32 s reach = reach reg := by
  rw [access_of_admits _ _ _ _ hr (admits_reg s.cfg reg), Nat.add_sub_cancel_left, regAt_offset]

/-- All that an access can do: stop by name, or reach a register, and then it was admitted outside reset. -/
theorem access_cases (addr : Nat) (width : Width) (s : State) (reach : Reg → Result) :
    (∃ f, access addr width s reach = .fault f) ∨ (∃ r, access addr width s reach = .refused r) ∨
    (s.inReset = false ∧ s.cfg.admits addr width = true ∧
      access addr width s reach = reach (regAt (addr - s.cfg.base))) := by
  unfold access
  split
  · exact .inr (.inl ⟨_, rfl⟩)
  · split
    · exact .inl ⟨_, rfl⟩
    · split
      · exact .inr (.inl ⟨_, rfl⟩)
      · split
        · exact .inr (.inl ⟨_, rfl⟩)
        · refine .inr (.inr ⟨?_, ?_, rfl⟩) <;> simp_all [Config.admits]

/-- A read changes at most the output FIFO, and never lengthens it. -/
theorem readReg_state (reg : Reg) (s : State) :
    ∃ q, (readReg reg s).2 = { s with outq := q } ∧ q.length ≤ s.outq.length := by
  cases reg with
  | frOut => exact popOut_state s
  | _ => exact ⟨s.outq, rfl, Nat.le_refl _⟩

end Sys2Proof.Machine
end

