-- ==== Sys2Proof/Laws/Exec.lean ====
section
/-! SUPPORT. Every command is an acceptance: a list of checks and an effect. Proofs about `exec` cite this and
`accept_cases`, and never unfold a meaning. -/

namespace Sys2Proof.Machine

/-- The checks of a command beyond BUSY, in their order. -/
def checksOf (i : Instr) (s : State) : List (Bool × ErrCode) :=
  match i with
  | .nop | .clrerr | .frAbort => []
  | .keyset => [(s.frMode != .idle, .session)]
  | .encb | .decb => [(!s.keyValid, .nokey)]
  | .frOpenEnc | .frOpenDec => openChecks s
  | .frPush _ | .frFinal => streamChecks s

/-- The effect of an accepted command. -/
def effectOf (i : Instr) : State → State :=
  match i with
  | .nop => id
  | .keyset => startKeyset
  | .encb => startEncb
  | .decb => startDecb
  | .clrerr => clearError
  | .frOpenEnc => openStream .enc
  | .frOpenDec => openStream .dec
  | .frPush b => pushByte b
  | .frFinal => finalStream
  | .frAbort => abortStream

theorem exec_eq_accept (i : Instr) (s : State) : exec i s = accept (checksOf i s) (effectOf i) s := by
  cases i <;> rfl

/-- While a job is pending every command records `ERR_BUSY` and nothing else. -/
theorem exec_of_busy (i : Instr) (s : State) (h : s.busy = true) : exec i s = .next (raiseError .busy s) := by
  rw [exec_eq_accept, accept_of_busy _ _ _ h]

/-- A command none of whose checks fires has its effect. -/
theorem exec_of_ok (i : Instr) (s : State) (hb : s.busy = false) (h : firstError (checksOf i s) = none) :
    exec i s = .next (effectOf i s) := by rw [exec_eq_accept, accept_of_ok _ _ _ hb h]

/-- All that a command can do: it always answers a next state, which is a recorded error or the command's effect. -/
theorem exec_cases (i : Instr) (s : State) :
    (∃ code, firstError ((s.busy, .busy) :: checksOf i s) = some code ∧ exec i s = .next (raiseError code s)) ∨
    (s.busy = false ∧ firstError (checksOf i s) = none ∧ exec i s = .next (effectOf i s)) := by
  rw [exec_eq_accept]
  exact accept_cases _ _ _

/-- The checks of a command record rejected-command codes only (60_exceptions.md R220). -/
theorem checksOf_code (i : Instr) (s : State) (b : Bool) (code : ErrCode) (h : (b, code) ∈ checksOf i s) :
    code ≠ .none ∧ code.isStreamFatal = false := by
  cases i <;> simp [checksOf, openChecks, streamChecks] at h <;>
    first
    | (rcases h with h | h <;> (obtain ⟨-, rfl⟩ := h; decide))
    | (obtain ⟨-, rfl⟩ := h; decide)

/-- All that issuing a word can do: a recorded error, or, with no job pending, the effect of the command it decodes
to. -/
theorem issueCommand_cases (w : Word) (s : State) :
    (∃ code, code ≠ .none ∧ code.isStreamFatal = false ∧ issueCommand w s = .next (raiseError code s)) ∨
    (∃ i, decode w = .ok i ∧ s.busy = false ∧ firstError (checksOf i s) = none ∧
      issueCommand w s = .next (effectOf i s)) := by
  unfold issueCommand
  split
  · exact .inl ⟨.busy, by decide, rfl, rfl⟩
  · next hb =>
    split
    · exact .inl ⟨.illegal, by decide, rfl, rfl⟩
    · next i hd =>
      rcases exec_cases i s with ⟨code, hc, he⟩ | ⟨hb', hc, he⟩
      · rw [firstError_cons, if_neg hb] at hc
        obtain ⟨h1, h2⟩ := checksOf_code i s true code (mem_of_firstError _ _ hc)
        exact .inl ⟨code, h1, h2, he⟩
      · exact .inr ⟨i, hd, hb', hc, he⟩

end Sys2Proof.Machine
end

