-- ==== Sys2Proof/Laws/PerInstr.lean ====
section
/-! SUPPORT. Facts proved of every command, one lemma a constructor of `Instr`. -/

namespace Sys2Proof.Laws.EncodedWordLegal

/-- The word of the command is a legal command word (30_encoding.md R83). -/
def Statement (i : Instr) : Prop := (fieldsOf (encode i)).wf = true

/-- It is enough that the command's fields are legal. -/
theorem of_fields (i : Instr) (h : (encodeFields i).wf = true) : Statement i := by
  rw [Statement, fieldsOf_encode, h]

theorem nop : Statement .nop := of_fields _ rfl
theorem keyset : Statement .keyset := of_fields _ rfl
theorem encb : Statement .encb := of_fields _ rfl
theorem decb : Statement .decb := of_fields _ rfl
theorem clrerr : Statement .clrerr := of_fields _ rfl
theorem frOpenEnc : Statement .frOpenEnc := of_fields _ rfl
theorem frOpenDec : Statement .frOpenDec := of_fields _ rfl
theorem frPush (b : Byte) : Statement (.frPush b) := of_fields _ rfl
theorem frFinal : Statement .frFinal := of_fields _ rfl
theorem frAbort : Statement .frAbort := of_fields _ rfl

end Sys2Proof.Laws.EncodedWordLegal
end

