-- ==== Sys2Proof/Laws/Step.lean ====
section
/-! SUPPORT. What one step of the machine can do, said once. -/

namespace Sys2Proof.Machine

theorem step_of_turn (s : State) (t : Turn) (rest : List Turn) (h : s.turns = t :: rest) :
    step s = takeTurn t { s with turns := rest } := by simp [step, h]

theorem step_of_no_turn (s : State) (h : s.turns = []) : step s = defaultTurn s := by simp [step, h]

/-- All that a turn of the host can do when it answers a next state: nothing left to issue, a read, a write, or one
round of a polling loop, each of an admitted access outside reset. -/
theorem hostTurn_cases (s t : State) (h : hostTurn s = .next t) :
    (s.hostProg = [] ∧ t = s) ∨
    (∃ addr width rest, s.hostProg = .rd addr width :: rest ∧
      busRead addr width { s with hostProg := rest } = .next t) ∨
    (∃ addr width data rest, s.hostProg = .wr addr width data :: rest ∧
      busWrite addr width data { s with hostProg := rest } = .next t) ∨
    (∃ addr mask want rest, s.hostProg = .repeatRd addr mask want :: rest ∧
      pollRead addr mask want { s with hostProg := rest } = .next t) := by
  unfold hostTurn at h
  split at h
  · next he => exact .inl ⟨he, by simpa using h.symm⟩
  · next he => exact .inr (.inl ⟨_, _, _, he, h⟩)
  · next he => exact .inr (.inr (.inl ⟨_, _, _, _, he, h⟩))
  · next he => exact .inr (.inr (.inr ⟨_, _, _, _, he, h⟩))

/-- All that a step can do when it answers a next state: the first turn moves, or, with none left, nobody, the
engine or the host. -/
theorem step_cases (s t : State) (h : step s = .next t) :
    (∃ turn rest, s.turns = turn :: rest ∧ takeTurn turn { s with turns := rest } = .next t) ∨
    (s.turns = [] ∧ s.inReset = true ∧ t = s) ∨
    (s.turns = [] ∧ s.inReset = false ∧ s.busy = true ∧ t = engineStep s) ∨
    (s.turns = [] ∧ s.inReset = false ∧ s.busy = false ∧ hostTurn s = .next t) := by
  cases hs : s.turns with
  | cons turn rest => exact .inl ⟨turn, rest, rfl, by rwa [step_of_turn s turn rest hs] at h⟩
  | nil =>
    rw [step_of_no_turn s hs] at h
    unfold defaultTurn at h
    split at h
    · next hr => exact .inr (.inl ⟨rfl, hr, by simpa using h.symm⟩)
    · next hr =>
      split at h
      · next hb => exact .inr (.inr (.inl ⟨rfl, by simpa using hr, hb, by simpa using h.symm⟩))
      · next hb => exact .inr (.inr (.inr ⟨rfl, by simpa using hr, by simpa using hb, h⟩))

/-- On any machine, a run of `k + 1` steps is a step and a run of `k`. -/
theorem run_succ_of (M : Host.Core) (k : Nat) (s t : M.State) (h : M.step s = .next t) :
    M.run (k + 1) s = M.run k t := by rw [Host.Core.run, h]

/-- On any machine, a run that answers a next state took its first step. -/
theorem run_succ_inv_of (M : Host.Core) (k : Nat) (s t : M.State) (h : M.run (k + 1) s = .next t) :
    ∃ u : M.State, M.step s = .next u ∧ M.run k u = .next t := by
  rw [Host.Core.run] at h
  cases hs : M.step s with
  | next u => rw [hs] at h; exact ⟨u, rfl, h⟩
  | fault r => rw [hs] at h; cases h
  | refused r => rw [hs] at h; cases h

/-- A run of `k + 1` steps is a step and a run of `k`. -/
theorem run_succ (k : Nat) (s t : State) (h : step s = .next t) :
    Sys2Proof.core.run (k + 1) s = Sys2Proof.core.run k t := run_succ_of Sys2Proof.core k s t h

/-- A run that answers a next state took its first step. -/
theorem run_succ_inv (k : Nat) (s t : State) (h : Sys2Proof.core.run (k + 1) s = .next t) :
    ∃ u : State, step s = .next u ∧ Sys2Proof.core.run k u = .next t := run_succ_inv_of Sys2Proof.core k s t h

/-- Runs compose. -/
theorem run_add (j k : Nat) (s t : State) (h : Sys2Proof.core.run j s = .next t) :
    Sys2Proof.core.run (j + k) s = Sys2Proof.core.run k t := by
  induction j generalizing s with
  | zero => cases h; rw [Nat.zero_add]
  | succ j ih =>
    obtain ⟨u, hs, hu⟩ := run_succ_inv j s t h
    rw [Nat.add_right_comm, run_succ _ _ _ hs]
    exact ih u hu

end Sys2Proof.Machine
end

