-- ==== Sys2Proof/Tests/Slice0.lean ====
section
/-! SUPPORT. Tests: the well-formedness smoke test, decoding of words written out from the spec, the worked examples
and vectors of the spec, one step on small states, and a witness for the hypotheses of each obligation. Every expected
value is the spec's (the rule or the vector row is named), never the model's own answer. -/

namespace Sys2Proof.Tests

open Sys2Proof Sys2Proof.Machine

/-! ## Small states -/

/-- The state a step answers, if it answers one. -/
def nextOf : Result → Option State
  | .next s => some s
  | .fault _ | .refused _ => none

/-- `STATUS` after a step. -/
def statusAfter (r : Result) : Option Word := (nextOf r).map State.statusWord

/-- A session with no stream open. -/
def session : State := { State.reset with keyValid := true }

/-- The session of the key of 95_test_vectors.md V-SRC1. -/
def srcSession : State := { session with ks := keySchedule 0x0011223344556677 }

/-- An open ENC stream holding the bytes `41 42 43`. -/
def encABC : State :=
  { session with frMode := .enc, bufCount := 3, frByteCnt := 3, buf := #v[0x41, 0x42, 0x43, 0, 0, 0, 0, 0] }

/-- An open DEC stream whose held block is `b`. -/
def decHeld (b : Block) : State := { session with frMode := .dec, laValid := true, la := b, frByteCnt := 8 }

/-- A state with a pending KEYSET. -/
def pendingKeyset : State := { State.reset with job := .keyset }

/-- A state with an access of `CMD` as the host's next operation. -/
def aboutToWrite (w : BitVec 64) : State := { State.reset with hostProg := [.wr 0 .w32 w], turns := [.host] }

/-! ## Well-formedness (30_encoding.md R80, R83; 00_scope.md R8; 20_memory.md R60, R61) -/

theorem test_wf_accepts_push : (CmdWord.mk 0x12 0xFF 0).wf = true := by decide
theorem test_wf_refuses_reserved_field : (CmdWord.mk 0x12 0x41 1).wf = false := by decide
theorem test_wf_refuses_arg : (CmdWord.mk 0x01 0x01 0).wf = false := by decide
theorem test_wf_refuses_reserved_opcode : (CmdWord.mk 0x05 0 0).wf = false := by decide
theorem test_wf_accepts_config : (Config.mk 0x1000 255 8).wf = true ∧ (Config.mk 0 8 7).wf = true := by decide
theorem test_wf_refuses_base : (Config.mk 0x1020 16 7).wf = false := by decide
theorem test_wf_refuses_shallow_fifo : (Config.mk 0 7 7).wf = false := by decide
theorem test_wf_refuses_deep_fifo : (Config.mk 0 256 7).wf = false := by decide
theorem test_wf_refuses_strip_limit : (Config.mk 0 16 6).wf = false := by decide
theorem test_admits_last_register : Config.default.admits 0x3C .w32 = true := by decide
theorem test_admits_refuses_width : Config.default.admits 0x3C .w64 = false := by decide
theorem test_admits_refuses_misaligned : Config.default.admits 0x3D .w32 = false := by decide
theorem test_admits_refuses_outside : Config.default.admits 0x40 .w32 = false := by decide

/-! ## Decoding: the words of 30_encoding.md R82, R84 and 95_test_vectors.md E2 to E4 -/

theorem test_decode_nop : decodeTableWord 32 0x00000000 = some .nop := by decide
theorem test_decode_keyset : decodeTableWord 32 0x00000001 = some .keyset := by decide
theorem test_decode_encb : decodeTableWord 32 0x00000002 = some .encb := by decide
theorem test_decode_decb : decodeTableWord 32 0x00000003 = some .decb := by decide
theorem test_decode_clrerr : decodeTableWord 32 0x00000004 = some .clrerr := by decide
theorem test_decode_fr_open_enc : decodeTableWord 32 0x00000010 = some .frOpenEnc := by decide
theorem test_decode_fr_open_dec : decodeTableWord 32 0x00000011 = some .frOpenDec := by decide
theorem test_decode_fr_push : decodeTableWord 32 0x00004112 = some (.frPush 0x41) := by decide
theorem test_decode_fr_push_last : decodeTableWord 32 0x0000FF12 = some (.frPush 0xFF) := by decide
theorem test_decode_fr_final : decodeTableWord 32 0x00000013 = some .frFinal := by decide
theorem test_decode_fr_abort : decodeTableWord 32 0x00000014 = some .frAbort := by decide
theorem test_decode_reserved_opcode : decode 0x00000005 = .error .reservedOpcode := by decide
theorem test_decode_keyset_with_arg : decode 0x00000101 = .error .argNotZero := by decide
theorem test_decode_push_with_rsv : decode 0x00010012 = .error .reservedField := by decide
theorem test_encode_push : encode (.frPush 0x41) = 0x00004112 := by decide

/-! ## Permutations (40_permutation_engine.md, the example of each table and R110) -/

theorem test_ip : permute tableIP 0x0123456789ABCDEF = 0xCC00CCFFF0AAF0AA := by decide +kernel
theorem test_fp : permute tableFP 0x0A4CD99543423234 = 0x85E813540F0AB405 := by decide +kernel
theorem test_pc1 : permute tablePC1 0x133457799BBCDFF1 = 0xF0CCAAF556678F := by decide +kernel
theorem test_pc2 : permute tablePC2 0xE19955FAACCF1E = 0x1B02EFFC7072 := by decide +kernel
theorem test_e : permute tableE 0xF0AAF0AA = 0x7A15557A1555 := by decide +kernel
theorem test_p : permute tableP 0x5C82B597 = 0x234AA9BB := by decide +kernel

/-- R110, the most significant bit alone. -/
theorem test_top_bit_images :
    permute tableIP 0x8000000000000000 = 0x0000000001000000 ∧ permute tableFP 0x8000000000000000 = 0x40 ∧
    permute tablePC1 0x8000000000000000 = 0x01000000000000 ∧ permute tablePC2 0x80000000000000 = 0x080000000000 ∧
    permute tableE 0x80000000 = 0x400000000001 ∧ permute tableP 0x80000000 = 0x00800000 := by decide +kernel

/-- R110, bit 0 alone. -/
theorem test_bit_zero_images :
    permute tableIP 1 = 0x0000008000000000 ∧ permute tableFP 1 = 0x0200000000000000 ∧ permute tablePC1 1 = 0 ∧
    permute tablePC2 1 = 0x000000000100 ∧ permute tableE 1 = 0x800000000002 ∧ permute tableP 1 = 0x800 := by
  decide +kernel

/-! ## S-boxes, in the flat form of 42_feistel_core.md R141 to R148 -/

/-- The flat form of a box. -/
def flat (box : SBox) : List Nat := (List.range 64).map fun v => (box.lookup (BitVec.ofNat 6 v)).toNat

theorem test_sbox1 : flat sbox1 =
    [14, 0, 4, 15, 13, 7, 1, 4, 2, 14, 15, 2, 11, 13, 8, 1] ++
    [3, 10, 10, 6, 6, 12, 12, 11, 5, 9, 9, 5, 0, 3, 7, 8] ++
    [4, 15, 1, 12, 14, 8, 8, 2, 13, 4, 6, 9, 2, 1, 11, 7] ++
    [15, 5, 12, 11, 9, 3, 7, 14, 3, 10, 10, 0, 5, 6, 0, 13] := by decide +kernel

theorem test_sbox2 : flat sbox2 =
    [15, 3, 1, 13, 8, 4, 14, 7, 6, 15, 11, 2, 3, 8, 4, 14] ++
    [9, 12, 7, 0, 2, 1, 13, 10, 12, 6, 0, 9, 5, 11, 10, 5] ++
    [0, 13, 14, 8, 7, 10, 11, 1, 10, 3, 4, 15, 13, 4, 1, 2] ++
    [5, 11, 8, 6, 12, 7, 6, 12, 9, 0, 3, 5, 2, 14, 15, 9] := by decide +kernel

theorem test_sbox3 : flat sbox3 =
    [10, 13, 0, 7, 9, 0, 14, 9, 6, 3, 3, 4, 15, 6, 5, 10] ++
    [1, 2, 13, 8, 12, 5, 7, 14, 11, 12, 4, 11, 2, 15, 8, 1] ++
    [13, 1, 6, 10, 4, 13, 9, 0, 8, 6, 15, 9, 3, 8, 0, 7] ++
    [11, 4, 1, 15, 2, 14, 12, 3, 5, 11, 10, 5, 14, 2, 7, 12] := by decide +kernel

theorem test_sbox4 : flat sbox4 =
    [7, 13, 13, 8, 14, 11, 3, 5, 0, 6, 6, 15, 9, 0, 10, 3] ++
    [1, 4, 2, 7, 8, 2, 5, 12, 11, 1, 12, 10, 4, 14, 15, 9] ++
    [10, 3, 6, 15, 9, 0, 0, 6, 12, 10, 11, 1, 7, 13, 13, 8] ++
    [15, 9, 1, 4, 3, 5, 14, 11, 5, 12, 2, 7, 8, 2, 4, 14] := by decide +kernel

theorem test_sbox5 : flat sbox5 =
    [2, 14, 12, 11, 4, 2, 1, 12, 7, 4, 10, 7, 11, 13, 6, 1] ++
    [8, 5, 5, 0, 3, 15, 15, 10, 13, 3, 0, 9, 14, 8, 9, 6] ++
    [4, 11, 2, 8, 1, 12, 11, 7, 10, 1, 13, 14, 7, 2, 8, 13] ++
    [15, 6, 9, 15, 12, 0, 5, 9, 6, 10, 3, 4, 0, 5, 14, 3] := by decide +kernel

theorem test_sbox6 : flat sbox6 =
    [12, 10, 1, 15, 10, 4, 15, 2, 9, 7, 2, 12, 6, 9, 8, 5] ++
    [0, 6, 13, 1, 3, 13, 4, 14, 14, 0, 7, 11, 5, 3, 11, 8] ++
    [9, 4, 14, 3, 15, 2, 5, 12, 2, 9, 8, 5, 12, 15, 3, 10] ++
    [7, 11, 0, 14, 4, 1, 10, 7, 1, 6, 13, 0, 11, 8, 6, 13] := by decide +kernel

theorem test_sbox7 : flat sbox7 =
    [4, 13, 11, 0, 2, 11, 14, 7, 15, 4, 0, 9, 8, 1, 13, 10] ++
    [3, 14, 12, 3, 9, 5, 7, 12, 5, 2, 10, 15, 6, 8, 1, 6] ++
    [1, 6, 4, 11, 11, 13, 13, 8, 12, 1, 3, 4, 7, 10, 14, 7] ++
    [10, 9, 15, 5, 6, 0, 8, 15, 0, 14, 5, 2, 9, 3, 2, 12] := by decide +kernel

theorem test_sbox8 : flat sbox8 =
    [13, 1, 2, 15, 8, 13, 4, 8, 6, 10, 15, 3, 11, 7, 1, 4] ++
    [10, 12, 9, 5, 3, 6, 14, 11, 5, 0, 0, 14, 12, 9, 7, 2] ++
    [7, 2, 11, 1, 4, 14, 1, 7, 9, 4, 12, 10, 14, 8, 2, 13] ++
    [0, 15, 6, 12, 10, 9, 13, 0, 15, 3, 3, 5, 5, 6, 8, 11] := by decide +kernel

/-! ## Key schedule and Feistel core (95_test_vectors.md V-KS1, V-KS2, V-F, V-FC1, V-SRC1, V-EB) -/

theorem test_key_schedule_first_and_last :
    ((keySchedule 0x133457799BBCDFF1).toList.head? = some 0x1B02EFFC7072) ∧
    ((keySchedule 0x133457799BBCDFF1).toList.getLast? = some 0xCB3D8B0E17F5) := by decide +kernel

theorem test_key_schedule_halves :
    halvesAfter 0x133457799BBCDFF1 9 = (0x557F866, 0x3C7AAB3) ∧
    halvesAfter 0x133457799BBCDFF1 16 = (0xF0CCAAF, 0x556678F) := by decide +kernel

theorem test_round_function :
    roundF 0xF0AAF0AA 0x1B02EFFC7072 = 0x234AA9BB ∧ roundF 0x12345678 0x0F0F0F0F0F0F = 0x4A56390C := by
  decide +kernel

theorem test_rounds :
    roundsAfter .encrypting (keySchedule 0x133457799BBCDFF1) 0x0123456789ABCDEF 16 = (0x43423234, 0x0A4CD995) := by
  decide +kernel

theorem test_encrypt_source_vector :
    encrypt (keySchedule 0x0011223344556677) 0x0F1E2D3C4B5A6978 = 0x1BD6EF8BA5A0619C := by decide +kernel

theorem test_decrypt_zero_block : decrypt (keySchedule 0) 0x8CA64DE9C1B123A7 = 0 := by decide +kernel

/-! ## Streams (95_test_vectors.md V-FR rows 3 and 8, V-SRC3, P3) -/

theorem test_frame_encrypt_three_bytes :
    frameEncrypt (keySchedule 0x0011223344556677) [0x41, 0x42, 0x43] =
      [0x5D, 0x7B, 0x6F, 0x1B, 0xCF, 0x67, 0x76, 0x1C] := by decide +kernel

theorem test_frame_decrypt_three_bytes :
    frameDecrypt 7 (keySchedule 0x0011223344556677) [0x5D, 0x7B, 0x6F, 0x1B, 0xCF, 0x67, 0x76, 0x1C] =
      some [0x41, 0x42, 0x43] := by decide +kernel

theorem test_frame_decrypt_whole_pad_block :
    frameDecrypt 7 (keySchedule 0x0011223344556677) [0xB3, 0xA4, 0x63, 0xB9, 0x5F, 0x7B, 0x8B, 0x40] =
      some [8, 8, 8, 8, 8, 8, 8, 8] ∧
    frameDecrypt 8 (keySchedule 0x0011223344556677) [0xB3, 0xA4, 0x63, 0xB9, 0x5F, 0x7B, 0x8B, 0x40] = some [] := by
  decide +kernel

theorem test_strip_len :
    stripLen 7 0x4142434445460202 = 6 ∧ stripLen 7 0x4142434445460203 = 8 ∧ stripLen 7 0x4142434445464748 = 8 ∧
    stripLen 7 0x0808080808080808 = 8 ∧ stripLen 8 0x0808080808080808 = 0 := by decide

/-! ## One step of each command -/

/-- 95_test_vectors.md E5a. -/
theorem test_nop_while_busy : statusAfter (exec .nop pendingKeyset) = some 0x00000291 := by decide

/-- 44_control.md R211: a NOP leaves a recorded error as it is. -/
theorem test_nop_keeps_error :
    statusAfter (exec .nop { State.reset with errCode := .nokey }) = some 0x00000390 := by decide

/-- 41_key_schedule.md R124, acceptance: the key is latched, the session ends, the core is busy. -/
theorem test_keyset_latches_key :
    (nextOf (exec .keyset { session with key := 0x133457799BBCDFF1 })).map
      (fun s => (s.jin, s.keyValid, s.busy)) = some (0x133457799BBCDFF1, false, true) := by decide

/-- 95_test_vectors.md E9. -/
theorem test_keyset_in_stream : statusAfter (exec .keyset { session with frMode := .enc }) = some 0x00000496 := by decide

/-- 95_test_vectors.md E1. -/
theorem test_encb_no_key : statusAfter (exec .encb State.reset) = some 0x00000390 := by decide

/-- 42_feistel_core.md R153: ENCB may be used while a stream is open. -/
theorem test_encb_in_stream :
    (nextOf (exec .encb { encABC with din := 0x0F1E2D3C4B5A6978 })).map (fun s => (s.jin, s.job, s.bufCount)) =
      some (0x0F1E2D3C4B5A6978, .encb, 3) := by decide

/-- 42_feistel_core.md R154. -/
theorem test_decb_latches_din :
    (nextOf (exec .decb { session with din := 0x1BD6EF8BA5A0619C })).map (fun s => (s.jin, s.job, s.dout)) =
      some (0x1BD6EF8BA5A0619C, .decb, 0) := by decide

/-- 42_feistel_core.md R154 with 60_exceptions.md R220, code 3. -/
theorem test_decb_no_key : statusAfter (exec .decb State.reset) = some 0x00000390 := by decide

/-- 44_control.md R212, example: `STATUS[12:7] = 0`. -/
theorem test_clrerr_clears_record :
    (statusAfter (exec .clrerr { State.reset with errCode := .length, errOvf := true })).map (·.extractLsb' 7 6) =
      some 0 := by decide

/-- 43_stream_framer.md R171, example. -/
theorem test_fr_open_enc :
    (nextOf (exec .frOpenEnc { session with frByteCnt := 5 })).map
      (fun s => (s.statusWord.extractLsb' 2 2, s.frByteCnt)) = some (1, 0) := by decide

/-- 43_stream_framer.md R172, example. -/
theorem test_fr_open_dec :
    (statusAfter (exec .frOpenDec session)).map (·.extractLsb' 2 2) = some 2 := by decide

/-- 95_test_vectors.md E8. -/
theorem test_fr_open_twice : statusAfter (exec .frOpenDec { session with frMode := .enc }) = some 0x00000496 := by decide

/-- 43_stream_framer.md R173, example. -/
theorem test_fr_push_stores_byte :
    (nextOf (exec (.frPush 0x41) encABC)).map (fun s => (s.buf.toList.getD 3 0, s.bufCount, s.job)) =
      some (0x41, 4, .none) := by decide

/-- 95_test_vectors.md E6. -/
theorem test_fr_push_no_stream : statusAfter (exec (.frPush 0x41) session) = some 0x00000492 := by decide

/-- 43_stream_framer.md R176, example. -/
theorem test_fr_final_pads : (nextOf (exec .frFinal encABC)).map (·.jin) = some 0x4142430505050505 := by decide

/-- 43_stream_framer.md R177, example. -/
theorem test_fr_final_strips :
    (nextOf (exec .frFinal (decHeld 0x4142434445460202))).map (·.outq) =
      some [0x41, 0x42, 0x43, 0x44, 0x45, 0x46] := by decide

/-- 95_test_vectors.md E11. -/
theorem test_fr_final_length_zero : statusAfter (exec .frFinal { session with frMode := .dec }) = some 0x00000692 := by
  decide

/-- 43_stream_framer.md R179, example: `FR_MODE = 0`, `ERRCODE = 7`, `OUT_COUNT = 0`, `FR_BYTECNT = 5`. -/
theorem test_fr_abort_ends_stream :
    (nextOf (exec .frAbort { session with frMode := .enc, bufCount := 5, frByteCnt := 5 })).map
      (fun s => (s.statusWord, s.frByteCnt)) = some (0x00000792, 5) := by decide

/-- 95_test_vectors.md E16. -/
theorem test_fr_abort_idle : statusAfter (exec .frAbort session) = some 0x00000012 := by decide

/-- 95_test_vectors.md E10, last push: the FIFO is full and the byte is not taken. -/
theorem test_overrun :
    statusAfter (exec (.frPush 0x10)
      { session with frMode := .enc, outq := List.replicate 16 0, frByteCnt := 16 }) = some 0x001005A6 := by decide

/-- 95_test_vectors.md E18: a stream-fatal error displaces a rejected-command error. -/
theorem test_displacement :
    statusAfter (exec .frFinal { session with frMode := .dec, errCode := .session }) = some 0x00001692 := by decide

/-! ## The engine, the window and the step -/

/-- 41_key_schedule.md R124, example. -/
theorem test_keyset_completion :
    (engineStep { pendingKeyset with jin := 0x133457799BBCDFF1 }).ks.toList.head? = some 0x1B02EFFC7072 := by
  decide +kernel

/-- 42_feistel_core.md R153, example. -/
theorem test_encb_completion :
    (engineStep { srcSession with job := .encb, jin := 0x0F1E2D3C4B5A6978 }).dout = 0x1BD6EF8BA5A0619C := by
  decide +kernel

/-- 42_feistel_core.md R154, example. -/
theorem test_decb_completion :
    (engineStep { srcSession with job := .decb, jin := 0x1BD6EF8BA5A0619C }).dout = 0x0F1E2D3C4B5A6978 := by
  decide +kernel

/-- 95_test_vectors.md P2, after the final job. -/
theorem test_final_job_completion :
    (engineStep { srcSession with job := .frEncFinal, frMode := .enc, jin := 0x4142430505050505 }).outq =
      [0x5D, 0x7B, 0x6F, 0x1B, 0xCF, 0x67, 0x76, 0x1C] := by decide +kernel

/-- 95_test_vectors.md P3, before `FR_FINAL`: nothing is emitted, the lookahead block is held. -/
theorem test_dec_job_completion :
    (engineStep { srcSession with job := .frDec, frMode := .dec, jin := 0x5D7B6F1BCF67761C }).statusWord =
      0x0800001A := by decide +kernel

/-- 95_test_vectors.md E21. -/
theorem test_status_write_ignored :
    statusAfter (busWrite 0x04 .w32 0xFFFFFFFF State.reset) = some 0x00000010 := by decide

/-- 95_test_vectors.md P1: `RD ID`, `RD CONFIG`. -/
theorem test_read_constants :
    (readReg .id State.reset).1 = 0x44455331 ∧ (readReg .config State.reset).1 = 0x00000010 := by decide

/-- 10_state.md R34. -/
theorem test_fr_out_pop :
    (nextOf (busRead 0x20 .w32 { session with outq := [0x41, 0x42] })).map (fun s => (s.replies, s.outq)) =
      some ([⟨0x20, 0x00000141⟩], [0x42]) := by decide

/-- 95_test_vectors.md E1 and E2, as steps from reset. -/
theorem test_step_from_reset :
    statusAfter (step (State.reset.withFetchWord 32 0x02)) = some 0x00000390 ∧
    statusAfter (step (State.reset.withFetchWord 32 0x05)) = some 0x00000190 := by decide

/-! ## Witnesses: concrete states and operands that meet the hypotheses of each obligation, clause by clause -/

theorem witness_DecodeEncodeAgree : decode 0x0000FF12 = .ok (.frPush 0xFF) := by decide

/-- Reserved field at its least and greatest value, `ARG` at 1 and 255, and the opcodes at the edges of the gaps. -/
theorem witness_DecoderLinesAndLegalWordCount :
    (0x00010000 : Word).extractLsb' 16 16 ≠ 0 ∧ (0xFFFF0000 : Word).extractLsb' 16 16 ≠ 0 ∧
    ((0x13 : Byte) ≠ 0x12 ∧ (1 : Byte) ≠ 0) ∧ ((0xFF : Byte) ≠ 0x12 ∧ (0xFF : Byte) ≠ 0) ∧
    (∀ op ∈ [(0x05 : Byte), 0x0F, 0x15, 0xFF], op ≠ 0x12 ∧ op ∉ plainOpcodes) := by decide

theorem witness_IllegalWordOnlyRecords :
    decode 0x00000005 = .error .reservedOpcode ∧
    (∀ op ∈ [(0x05 : Byte), 0x0F, 0x15, 0xFF], (0x05 ≤ op.toNat ∧ op.toNat ≤ 0x0F) ∨ 0x15 ≤ op.toNat) := by decide

theorem witness_StepRunsDecodedCommand :
    let s := aboutToWrite 0x00004112
    s.inReset = false ∧ s.hostProg = .wr (s.cfg.base + Reg.cmd.offset) .w32 0x00004112 :: [] ∧
    decode ((0x00004112 : BitVec 64).setWidth 32) = .ok (.frPush 0x41) ∧ s.turns = .host :: [] ∧
    { s with turns := [] }.busy = false := by decide

theorem witness_StepTakesEngineAndResetTurns :
    ({ pendingKeyset with turns := [.engine] }.turns = .engine :: [] ∧ pendingKeyset.inReset = false) ∧
    ({ pendingKeyset with turns := [.micro] }.turns = .micro :: []) ∧
    ({ pendingKeyset with turns := [.reset true] }.turns = .reset true :: []) ∧
    (let r := { pendingKeyset with turns := [.engine], inReset := true }; r.inReset = true ∧ r.turns = .engine :: []) ∧
    (let r := { pendingKeyset with turns := [.micro], inReset := true }; r.inReset = true ∧ r.turns = .micro :: []) := by
  decide

/-- The first and the last output position of the expansion. -/
theorem witness_PermuteMovesPositions : (1 ≤ 1 ∧ 1 ≤ 48) ∧ (1 ≤ 48 ∧ 48 ≤ 48) ∧ tableE.entries.length = 48 := by decide

/-- 95_test_vectors.md V-KS2: the key of the source and the same with every parity bit flipped. -/
theorem witness_ParityBitsDoNotMatter :
    (∀ i < 64, i % 8 ≠ 0 → (0x0011223344556677 : Block).getLsbD i = (0x0110233245546776 : Block).getLsbD i) ∧
    State.reset.busy = false ∧ State.reset.frMode = .idle := by decide

theorem witness_ScheduleMicroStepsFollowRounds :
    pendingKeyset.job = .keyset ∧ pendingKeyset.started = false ∧ 0 ≤ 16 ∧ 16 ≤ 16 := by decide

theorem witness_WeakKeysMakeTheTransformsEqual :
    (∀ i j : Fin 16, (Vector.replicate 16 (0xFFFFFF000000 : Subkey))[i] = (Vector.replicate 16 0xFFFFFF000000)[j]) ∧
    (0xE0E0E0E0F1F1F1F1 : Block) ∈ ([0x0101010101010101, 0xFEFEFEFEFEFEFEFE, 0xE0E0E0E0F1F1F1F1, 0x1F1F1F1F0E0E0E0E, 0,
      0xFFFFFFFFFFFFFFFF] : List Block) := by
  refine ⟨fun i j => ?_, by decide⟩
  simp

theorem witness_BlockMicroStepsComputeTheTransform :
    session.started = false ∧ 0 ≤ 16 ∧ 16 ≤ 16 ∧
    (∀ j ∈ [Job.encb, .frEnc, .frEncFinal], let s := { session with job := j }
      s.job = .encb ∨ s.job = .frEnc ∨ s.job = .frEncFinal) ∧
    (∀ j ∈ [Job.decb, .frDec], let s := { session with job := j }; s.job = .decb ∨ s.job = .frDec) := by decide

theorem witness_NopAndClrerrComplete : State.reset.busy = false := by decide

theorem witness_KeysetIsAccepted : session.busy = false ∧ session.frMode = .idle := by decide

/-- With no stream open, and while one is open. -/
theorem witness_EncbAndDecbAreAccepted :
    (session.busy = false ∧ session.keyValid = true) ∧ (encABC.busy = false ∧ encABC.keyValid = true) := by decide

theorem witness_FrOpenStartsAStream :
    session.busy = false ∧ session.keyValid = true ∧ session.frMode = .idle := by decide

/-- A first, a seventh and an eighth byte of a chunk, the FIFO with exactly 8 places left. -/
theorem witness_FrPushStoresItsByte :
    ∀ n ∈ [(0 : Fin 8), 6, 7], ∀ mode ∈ [FrMode.enc, .dec],
      let s := { session with frMode := mode, bufCount := n, outq := List.replicate 8 0 }
      s.busy = false ∧ s.frMode ≠ .idle ∧ 8 ≤ s.cfg.outDepth - s.outq.length ∧
      (s.bufCount.val < 7 ∨ s.bufCount.val = 7) := by decide

/-- An empty chunk, one of seven bytes, and one between. -/
theorem witness_FrFinalPadsInEncMode :
    ∀ n ∈ [(0 : Fin 8), 3, 7], let s := { encABC with bufCount := n }
      s.busy = false ∧ s.frMode = .enc ∧ 8 ≤ s.cfg.outDepth - s.outq.length := by decide

/-- Length 0, a trailing part of a block, and a held block. -/
theorem witness_FrFinalStripsInDecMode :
    (let s := { session with frMode := .dec }
     s.busy = false ∧ s.frMode = .dec ∧ 8 ≤ s.cfg.outDepth - s.outq.length ∧ (s.bufCount ≠ 0 ∨ s.laValid = false)) ∧
    (let s := { decHeld 0x4142434445460202 with bufCount := 1 }; s.bufCount ≠ 0 ∨ s.laValid = false) ∧
    (let s := decHeld 0x4142434445460202
     s.busy = false ∧ s.frMode = .dec ∧ 8 ≤ s.cfg.outDepth - s.outq.length ∧ s.bufCount = 0 ∧ s.laValid = true) := by
  decide

theorem witness_FrAbortEndsTheStream :
    (session.busy = false ∧ session.frMode = .idle) ∧ (encABC.busy = false ∧ encABC.frMode ≠ .idle) := by decide

/-- A run of length 1 and of length 8, and each way to have no padding: 0, above the limit, a broken run. -/
theorem witness_StripLenFollowsTheHeuristic :
    (let b : Block := 0x4142434445464701; let p := (byteOf b 7).toNat
     1 ≤ p ∧ p ≤ 7 ∧ ∀ j ∈ List.range 8, 8 - p ≤ j → (byteOf b j).toNat = p) ∧
    (let b : Block := 0x0808080808080808; let p := (byteOf b 7).toNat
     1 ≤ p ∧ p ≤ 8 ∧ ∀ j ∈ List.range 8, 8 - p ≤ j → (byteOf b j).toNat = p) ∧
    (byteOf 0x4142434445464700 7).toNat = 0 ∧ 7 < (byteOf 0x0808080808080808 7).toNat ∧
    (let b : Block := 0x4142434445460203; 8 - (byteOf b 7).toNat ≤ 6 ∧ (byteOf b 6).toNat ≠ (byteOf b 7).toNat) := by
  decide

/-- Busy; an illegal word; a command for each code of the order, and one with no error. -/
theorem witness_FirstFiringCheckDecides :
    pendingKeyset.busy = true ∧ (State.reset.busy = false ∧ decode 0x00000005 = .error .reservedOpcode) ∧
    decode 0x00004112 = .ok (.frPush 0x41) ∧
    commandError (.frPush 0x41) pendingKeyset = some .busy ∧ commandError .encb State.reset = some .nokey ∧
    commandError (.frPush 0x41) session = some .session ∧
    commandError (.frPush 0x41) { encABC with outq := List.replicate 9 0 } = some .overrun ∧
    commandError (.frPush 0x41) { encABC with outq := List.replicate 8 0 } = none := by decide

/-- Each of the three ways to be rejected. -/
theorem witness_RejectedCommandOnlyRecords :
    pendingKeyset.busy = true ∧ (State.reset.busy = false ∧ decode 0x00000005 = .error .reservedOpcode) ∧
    (decode 0x00000001 = .ok .keyset ∧ commandError .keyset encABC = some .session) := by decide

theorem witness_RecordErrorKeepsTheFirst :
    State.reset.errCode = .none ∧ { session with errCode := .session }.errCode ≠ .none ∧
    (ErrCode.length ∈ [ErrCode.length, .io] ∧ ErrCode.session ∉ [ErrCode.length, .io]) ∧
    ErrCode.busy ∉ [ErrCode.length, .io] ∧ ErrCode.io ∈ [ErrCode.length, .io] := by decide

theorem witness_CommandsLeaveTheRestAlone :
    (nextOf (exec .nop session)).isSome = true ∧ (nextOf (exec (.frPush 0x41) encABC)).isSome = true ∧
    Instr.nop ≠ .keyset ∧ Instr.nop ∉ [.frOpenEnc, .frOpenDec, .frFinal, .frAbort] ∧
    (∀ b, Instr.nop ≠ .frPush b) ∧ Instr.nop ≠ .clrerr := by
  refine ⟨by decide, by decide, by decide, by decide, (fun b h => by cases h), by decide⟩

theorem witness_KeysetCompletionStartsTheSession : pendingKeyset.job = .keyset := rfl

theorem witness_BlockCompletionWritesDout :
    { session with job := .encb }.job = .encb ∧ { session with job := .decb }.job = .decb := by decide

theorem witness_FramerCompletionEmitsBytes :
    { encABC with job := .frEnc }.job = .frEnc ∧ { decHeld 0 with job := .frDec }.job = .frDec ∧
    { encABC with job := .frEncFinal }.job = .frEncFinal := by decide

theorem witness_PendingJobIgnoresOperandWrites : pendingKeyset.busy = true := by decide

/-- The empty FIFO and the deepest full one. -/
theorem witness_StatusFieldsAreWhereR22PutsThem :
    State.reset.outq.length ≤ 255 ∧ { session with outq := List.replicate 255 0 }.outq.length ≤ 255 ∧
    (Config.mk 0 8 7).wf = true ∧ (Config.mk 64 255 8).wf = true := by decide +kernel

theorem witness_ReadValuesOfTheWindow : State.reset.inReset = false := rfl

theorem witness_FrOutPopsTheHeadByte :
    State.reset.inReset = false ∧ State.reset.outq = [] ∧
    { pendingKeyset with outq := [0] }.inReset = false ∧ { pendingKeyset with outq := [0] }.outq = 0 :: [] := by decide

theorem witness_WriteEffectsOfTheWindow : State.reset.inReset = false := rfl

/-- The first and last byte of the window; each width but 32; each misaligned remainder. -/
theorem witness_UnadmittedAccessesAreRefused :
    (0 < 64 ∧ 63 < 64) ∧ { session with inReset := true }.inReset = true ∧
    (session.inReset = false ∧ Width.w8 ≠ .w32 ∧ Width.w16 ≠ .w32 ∧ Width.w64 ≠ .w32) ∧
    (1 % 4 ≠ 0 ∧ 2 % 4 ≠ 0 ∧ 63 % 4 ≠ 0) := by decide

theorem witness_OnlyTheNamedAccessesHaveSideEffects :
    { session with outq := [0x41] }.outq = 0x41 :: [] ∧ Reg.status ≠ .frOut ∧
    (readReg .frOut { session with outq := [0x41] }).2 ≠ { session with outq := [0x41] } ∧
    writeReg .keyHi 1 session ≠ .next session := by
  refine ⟨rfl, by decide, fun h => ?_, fun h => ?_⟩
  · exact absurd (congrArg State.outq h) (by decide)
  · exact absurd (congrArg State.key (Host.Outcome.next.inj h)) (by decide)

/-- The reset state meets the invariant. -/
theorem reset_inv : State.reset.Inv where
  spec := ⟨by decide, by decide, by decide, by decide, by decide, by decide, by decide⟩
  cfg_wf := by decide
  job_has_room := by decide
  job_chunk_empty := by decide
  block_job_has_key := by decide

/-- An idle session meets the invariant. -/
theorem session_inv : session.Inv where
  spec := ⟨by decide, by decide, by decide, by decide, by decide, by decide, by decide⟩
  cfg_wf := by decide
  job_has_room := by decide
  job_chunk_empty := by decide
  block_job_has_key := by decide

/-- The invariant says nothing of what the host and the turns are about to do. -/
theorem inv_of_inv (s : State) (ops : List HostOp) (turns : List Turn) (h : s.Inv) :
    State.Inv { s with hostProg := ops, turns := turns } :=
  ⟨⟨h.spec.1, h.spec.2, h.spec.3, h.spec.4, h.spec.5, h.spec.6, h.spec.7⟩, h.2, h.3, h.4, h.5⟩

theorem witness_EveryStepKeepsTheInvariant : State.reset.Inv ∧ (nextOf (step State.reset)).isSome = true :=
  ⟨reset_inv, by decide⟩

theorem witness_ResetMeetsTheInvariant : (Config.mk 64 255 8).wf = true ∧ (Config.mk 0 8 7).wf = true := by decide

/-- A run of one step, a read of `STATUS`. -/
theorem witness_ReachableStatesMeetR48 :
    Config.default.wf = true ∧
    ∃ t, core.run 1 { State.reset with cfg := Config.default, hostProg := [.rd 4 .w32], turns := [.host] } = .next t :=
  ⟨by decide, _, rfl⟩

/-- A completion that changes `KS`, and the end of a reset. -/
theorem witness_OnlyKeysetCompletionWritesSubkeys :
    ∃ t, step { pendingKeyset with jin := 0x133457799BBCDFF1 } = .next t ∧ t.ks ≠ pendingKeyset.ks := by
  refine ⟨_, rfl, fun h => ?_⟩
  have key := test_key_schedule_first_and_last.1
  rw [show keySchedule 0x133457799BBCDFF1 = pendingKeyset.ks from h] at key
  exact absurd key (by decide)

/-- A completion that changes `DOUT`. -/
theorem witness_OnlyBlockCompletionWritesDout :
    ∃ t, step { srcSession with job := .encb, jin := 0x0F1E2D3C4B5A6978 } = .next t ∧ t.dout ≠ srcSession.dout := by
  refine ⟨_, rfl, fun h => ?_⟩
  have key := test_encb_completion
  rw [show (engineStep { srcSession with job := .encb, jin := 0x0F1E2D3C4B5A6978 }).dout = srcSession.dout from h] at key
  exact absurd key (by decide)

/-- A push that changes the count. -/
theorem witness_OnlyPushAndOpenChangeTheByteCount :
    (nextOf (step { encABC with hostProg := [.wr 0 .w32 0x00004112], turns := [.host] })).map (·.frByteCnt) = some 4 ∧
    encABC.frByteCnt ≠ 4 := by decide

theorem witness_PendingJobIsNeverReplaced :
    pendingKeyset.busy = true ∧
    (nextOf (step { pendingKeyset with hostProg := [.wr 0 .w32 2], turns := [.host] })).map State.busy = some true := by
  decide

theorem witness_ParametersNeverChange : (nextOf (step (aboutToWrite 0x00004112))).isSome = true := by decide

theorem witness_PendingJobCompletes :
    let s := { pendingKeyset with turns := [.host, .micro, .host], hostProg := [.rd 4 .w32, .wr 0 .w32 2] }
    s.busy = true ∧ s.undisturbed = true := by decide

theorem witness_SetKeyThenBlockUnderEveryInterleaving :
    ∀ encrypting : Bool,
      let s := { State.reset with
        hostProg := (Pseudo.setKey 0x133457799BBCDFF1).expand State.reset.cfg ++
          (if encrypting then Pseudo.enc64 0x0123456789ABCDEF else Pseudo.dec64 0x0123456789ABCDEF).expand
            State.reset.cfg
        turns := [.micro, .host, .engine, .host] }
      s.Inv ∧ s.busy = false ∧ s.frMode = .idle ∧ s.undisturbed = true :=
  fun encrypting => ⟨inv_of_inv _ _ _ reset_inv, rfl, rfl, by cases encrypting <;> decide⟩

theorem witness_EncStreamIsFrameEncrypt :
    let s := { session with hostProg := streamOps session.cfg .frOpenEnc [0x41, 0x42, 0x43], turns := [.engine, .host] }
    s.Inv ∧ s.busy = false ∧ s.keyValid = true ∧ s.frMode = .idle ∧ s.outq = [] ∧ s.replies = [] ∧
      s.undisturbed = true :=
  ⟨inv_of_inv _ _ _ session_inv, rfl, rfl, rfl, rfl, rfl, by decide⟩

/-- A stream of legal length and one of length 0. -/
theorem witness_DecStreamIsFrameDecrypt :
    ∀ x ∈ [[], [0x5D, 0x7B, 0x6F, 0x1B, 0xCF, 0x67, 0x76, 0x1C]],
      let s := { session with hostProg := streamOps session.cfg .frOpenDec x, turns := [.engine, .host] }
      s.Inv ∧ s.busy = false ∧ s.keyValid = true ∧ s.frMode = .idle ∧ s.outq = [] ∧ s.errCode = .none ∧
        s.replies = [] ∧ s.undisturbed = true := by
  intro x hx
  refine ⟨inv_of_inv _ _ _ session_inv, rfl, rfl, rfl, rfl, rfl, rfl, ?_⟩
  revert x
  decide +kernel

/-- A length that is no multiple of 8, and the multiples 0 and 8. -/
theorem witness_FrameLengthAndRoundTrip :
    [(0x41 : Byte), 0x42, 0x43].length % 8 ≠ 0 ∧ ([] : List Byte).length % 8 = 0 ∧
    (List.replicate 8 (0x41 : Byte)).length % 8 = 0 := by decide

/-- Two equal chunks at different places, and a stream of length 16. -/
theorem witness_EqualChunksGiveEqualBlocks :
    let m := List.replicate 16 (0x41 : Byte)
    0 ≤ m.length / 8 ∧ 1 ≤ m.length / 8 ∧ streamBlock m 0 = streamBlock m 1 ∧ m.length % 8 = 0 := by decide +kernel

/-- 95_test_vectors.md V-SRC3, first and last row: `p` at 2 and at the limit 8. -/
theorem witness_PaddingAmbiguityStripsPlaintext :
    (1 ≤ 2 ∧ 2 ≤ 7 ∧ ∀ j ∈ List.range 8, 8 - 2 ≤ j → (byteOf 0x4142434445460202 j).toNat = 2) ∧
    (1 ≤ 8 ∧ 8 ≤ 8 ∧ ∀ j ∈ List.range 8, (byteOf 0x0808080808080808 j).toNat = 8) := by decide

end Sys2Proof.Tests
end

section
/-! SUPPORT. What a turn of the engine does, in and out of reset, and the dispatch of a step on the first turn listed
(00_scope.md R13, 44_control.md R213, 70_reset_and_hazards.md R250). -/

namespace Sys2Proof.Machine

@[simp] theorem engineTurn_of_running (s : State) (h : s.inReset = false) : engineTurn s = engineStep s := by
  simp [engineTurn, h]

@[simp] theorem engineTurn_of_reset (s : State) (h : s.inReset = true) : engineTurn s = s := by
  simp [engineTurn, h]

@[simp] theorem microTurn_of_running (s : State) (h : s.inReset = false) : microTurn s = microStep s := by
  simp [microTurn, h]

@[simp] theorem microTurn_of_reset (s : State) (h : s.inReset = true) : microTurn s = s := by
  simp [microTurn, h]

theorem step_of_engine_turn (s : State) (ts : List Turn) (h : s.turns = .engine :: ts) :
    step s = .next (engineTurn { s with turns := ts }) := step_of_turn s .engine ts h

theorem step_of_micro_turn (s : State) (ts : List Turn) (h : s.turns = .micro :: ts) :
    step s = .next (microTurn { s with turns := ts }) := step_of_turn s .micro ts h

theorem step_of_reset_turn (s : State) (ts : List Turn) (level : Bool) (h : s.turns = .reset level :: ts) :
    step s = .next (resetTurn level { s with turns := ts }) := step_of_turn s (.reset level) ts h

/-- Settles O6: the step is the listed turn's move, and the engine's two moves are guarded by the reset input. -/
theorem stepTakesEngineAndResetTurns : Obligations.StepTakesEngineAndResetTurns := by
  intro s ts
  refine ⟨fun ht hr => ?engine, fun ht hr => ?micro, fun level ht => step_of_reset_turn s ts level ht, ?held⟩
  case engine => rw [step_of_engine_turn s ts ht, engineTurn_of_running { s with turns := ts } hr]
  case micro => rw [step_of_micro_turn s ts ht, microTurn_of_running { s with turns := ts } hr]
  case held =>
    rintro hr (ht | ht)
    · rw [step_of_engine_turn s ts ht, engineTurn_of_reset { s with turns := ts } hr]
    · rw [step_of_micro_turn s ts ht, microTurn_of_reset { s with turns := ts } hr]

end Sys2Proof.Machine
end

section
/-! SUPPORT. What a completion step, a micro-step and an accepted command leave alone, said once each: the state after it
is the state before it with only the named registers replaced (44_control.md R210, R213; 41_key_schedule.md R125;
42_feistel_core.md R155). -/

namespace Sys2Proof.Machine

/-! The completion step. -/

theorem engineStep_of_idle (s : State) (h : s.job = .none) : engineStep s = s := by simp only [engineStep, h]

theorem engineStep_of_keyset (s : State) (h : s.job = .keyset) : engineStep s = completeKeyset s := by
  simp only [engineStep, h]

theorem engineStep_of_encb (s : State) (h : s.job = .encb) : engineStep s = completeEncb s := by
  simp only [engineStep, h]

theorem engineStep_of_decb (s : State) (h : s.job = .decb) : engineStep s = completeDecb s := by
  simp only [engineStep, h]

theorem engineStep_of_frEnc (s : State) (h : s.job = .frEnc) : engineStep s = completeFrEnc s := by
  simp only [engineStep, h]

theorem engineStep_of_frDec (s : State) (h : s.job = .frDec) : engineStep s = completeFrDec s := by
  simp only [engineStep, h]

theorem engineStep_of_frEncFinal (s : State) (h : s.job = .frEncFinal) : engineStep s = completeFrEncFinal s := by
  simp only [engineStep, h]

theorem engineStep_frame (s : State) :
    engineStep s =
      { s with
        dout := (engineStep s).dout, keyValid := (engineStep s).keyValid, frMode := (engineStep s).frMode
        frDone := (engineStep s).frDone, laValid := (engineStep s).laValid, outq := (engineStep s).outq
        ks := (engineStep s).ks, c := (engineStep s).c, d := (engineStep s).d, l := (engineStep s).l
        r := (engineStep s).r, rc := (engineStep s).rc, job := (engineStep s).job, la := (engineStep s).la
        started := (engineStep s).started, ksNext := (engineStep s).ksNext } := by
  cases hj : s.job with
  | none => rw [engineStep_of_idle s hj]
  | _ => simp only [engineStep, hj]; rfl

/-- After a completion step no job is pending. -/
@[simp] theorem engineStep_job (s : State) : (engineStep s).job = .none := by
  cases hj : s.job with
  | none => rw [engineStep_of_idle s hj, hj]
  | _ => simp only [engineStep, hj]; rfl

@[simp] theorem engineStep_busy (s : State) : (engineStep s).busy = false :=
  (busy_eq_false_iff _).2 (engineStep_job s)

theorem engineStep_cfg (s : State) : (engineStep s).cfg = s.cfg := by rw [engineStep_frame s]

theorem engineStep_frByteCnt (s : State) : (engineStep s).frByteCnt = s.frByteCnt := by
  rw [engineStep_frame s]

/-- Only the completion of `KEYSET` writes `KS` (10_state.md R40). -/
theorem engineStep_ks (s : State) (h : s.job ≠ .keyset) : (engineStep s).ks = s.ks := by
  cases hj : s.job with
  | none => rw [engineStep_of_idle s hj]
  | keyset => exact absurd hj h
  | _ => simp only [engineStep, hj]; rfl

/-- Only the completions of `ENCB` and `DECB` write `DOUT` (10_state.md R32). -/
theorem engineStep_dout (s : State) (he : s.job ≠ .encb) (hd : s.job ≠ .decb) : (engineStep s).dout = s.dout := by
  cases hj : s.job with
  | none => rw [engineStep_of_idle s hj]
  | encb => exact absurd hj he
  | decb => exact absurd hj hd
  | _ => simp only [engineStep, hj]; rfl

/-! The micro-step: only the working registers move. -/

theorem microSchedule_frame (s : State) :
    ∃ c d rc started ksNext,
      microSchedule s = { s with c := c, d := d, rc := rc, started := started, ksNext := ksNext } := by
  unfold microSchedule
  split
  · exact ⟨_, _, _, _, _, rfl⟩
  · split <;> exact ⟨_, _, _, _, _, rfl⟩

theorem microRound_frame (dir : Direction) (s : State) :
    ∃ l r rc started, microRound dir s = { s with l := l, r := r, rc := rc, started := started } := by
  unfold microRound
  split
  · exact ⟨_, _, _, _, rfl⟩
  · split <;> exact ⟨_, _, _, _, rfl⟩

theorem microStep_cases (s : State) :
    microStep s = s ∨ microStep s = microSchedule s ∨ ∃ dir, microStep s = microRound dir s := by
  unfold microStep
  split
  · exact .inl rfl
  · exact .inr (.inl rfl)
  all_goals exact .inr (.inr ⟨_, rfl⟩)

theorem microStep_frame (s : State) :
    ∃ c d l r rc started ksNext,
      microStep s =
        { s with c := c, d := d, l := l, r := r, rc := rc, started := started, ksNext := ksNext } := by
  rcases microStep_cases s with h | h | ⟨dir, h⟩ <;> rw [h]
  · exact ⟨_, _, _, _, _, _, _, rfl⟩
  · obtain ⟨c, d, rc, started, ksNext, h⟩ := microSchedule_frame s
    exact ⟨_, _, _, _, _, _, _, h⟩
  · obtain ⟨l, r, rc, started, h⟩ := microRound_frame dir s
    exact ⟨_, _, _, _, _, _, _, h⟩

/-! The effects of the commands that branch, by case (43_stream_framer.md R173, R176, R177, R179). -/

theorem pushByte_of_full (b : Byte) (s : State) (h : s.bufCount = 7) :
    pushByte b s =
      latchJob s.frMode.chunkJob (blockOf (s.buf.set s.bufCount b))
        { s with buf := s.buf.set s.bufCount b, frByteCnt := s.frByteCnt + 1, bufCount := 0 } := by
  simp only [pushByte, h, if_true]

theorem pushByte_of_room (b : Byte) (s : State) (h : s.bufCount ≠ 7) :
    pushByte b s =
      { s with buf := s.buf.set s.bufCount b, frByteCnt := s.frByteCnt + 1, bufCount := s.bufCount + 1 } := by
  simp only [pushByte, h, if_false]

theorem finalStream_of_enc (s : State) (h : s.frMode = .enc) : finalStream s = finalEnc s := by
  simp only [finalStream, h, if_true]

theorem finalStream_of_lengthError (s : State) (hm : s.frMode ≠ .enc) (h : s.bufCount ≠ 0 ∨ s.laValid = false) :
    finalStream s = streamFatal .length s := by
  simp only [finalStream, hm, finalDec, h, if_true, if_false]

theorem finalStream_of_strip (s : State) (hm : s.frMode ≠ .enc) (h : ¬(s.bufCount ≠ 0 ∨ s.laValid = false)) :
    finalStream s =
      { pushOut ((blockBytes s.la).take (stripLen s.cfg.padStripMax s.la)) s with
        laValid := false, frMode := .idle, frDone := true } := by
  simp only [finalStream, hm, finalDec, h, if_false]

theorem abortStream_of_idle (s : State) (h : s.frMode = .idle) : abortStream s = s := by
  simp only [abortStream, h, if_true]

theorem abortStream_of_open (s : State) (h : s.frMode ≠ .idle) : abortStream s = streamFatal .io s := by
  simp only [abortStream, h, if_false]

theorem pushByte_frame (b : Byte) (s : State) :
    pushByte b s =
      { s with
        frByteCnt := s.frByteCnt + 1, bufCount := (pushByte b s).bufCount, buf := (pushByte b s).buf
        job := (pushByte b s).job, jin := (pushByte b s).jin, started := (pushByte b s).started } := by
  by_cases h : s.bufCount = 7
  · rw [pushByte_of_full b s h]; rfl
  · rw [pushByte_of_room b s h]

theorem finalStream_frame (s : State) :
    finalStream s =
      { s with
        frMode := (finalStream s).frMode, frDone := (finalStream s).frDone, errCode := (finalStream s).errCode
        errOvf := (finalStream s).errOvf, bufCount := (finalStream s).bufCount, laValid := (finalStream s).laValid
        outq := (finalStream s).outq, job := (finalStream s).job, jin := (finalStream s).jin
        buf := (finalStream s).buf, started := (finalStream s).started } := by
  by_cases hm : s.frMode = .enc
  · rw [finalStream_of_enc s hm]; rfl
  · by_cases h : s.bufCount ≠ 0 ∨ s.laValid = false
    · rw [finalStream_of_lengthError s hm h]; rfl
    · rw [finalStream_of_strip s hm h]; rfl

theorem abortStream_frame (s : State) :
    abortStream s =
      { s with
        frMode := (abortStream s).frMode, frDone := (abortStream s).frDone, errCode := (abortStream s).errCode
        errOvf := (abortStream s).errOvf, bufCount := (abortStream s).bufCount, laValid := (abortStream s).laValid
        outq := (abortStream s).outq } := by
  by_cases h : s.frMode = .idle
  · rw [abortStream_of_idle s h]
  · rw [abortStream_of_open s h]; rfl

/-- No command's effect touches the parameters, the operands, the result, the subkeys, the datapath's working registers
or the host's side. -/
theorem effectOf_frame (i : Instr) (s : State) :
    effectOf i s =
      { s with
        keyValid := (effectOf i s).keyValid, frMode := (effectOf i s).frMode, frDone := (effectOf i s).frDone
        errCode := (effectOf i s).errCode, errOvf := (effectOf i s).errOvf, bufCount := (effectOf i s).bufCount
        laValid := (effectOf i s).laValid, frByteCnt := (effectOf i s).frByteCnt, outq := (effectOf i s).outq
        job := (effectOf i s).job, jin := (effectOf i s).jin, buf := (effectOf i s).buf
        started := (effectOf i s).started } := by
  cases i with
  | frPush b => simp only [effectOf]; rw [pushByte_frame b s]
  | frFinal => simp only [effectOf]; rw [finalStream_frame s]
  | frAbort => simp only [effectOf]; rw [abortStream_frame s]
  | _ => rfl

/-- What each command's effect does to the byte count: a push adds 1, an open clears it, any other leaves it
(10_state.md R35). -/
theorem effectOf_frByteCnt (i : Instr) (s : State) :
    (∃ b, i = .frPush b ∧ (effectOf i s).frByteCnt = s.frByteCnt + 1) ∨
    (i ∈ [.frOpenEnc, .frOpenDec] ∧ (effectOf i s).frByteCnt = 0) ∨
    (effectOf i s).frByteCnt = s.frByteCnt := by
  cases i with
  | frPush b => exact .inl ⟨b, rfl, by rw [effectOf, pushByte_frame b s]⟩
  | frOpenEnc => exact .inr (.inl ⟨by simp, rfl⟩)
  | frOpenDec => exact .inr (.inl ⟨by simp, rfl⟩)
  | frFinal => exact .inr (.inr (by rw [effectOf, finalStream_frame s]))
  | frAbort => exact .inr (.inr (by rw [effectOf, abortStream_frame s]))
  | _ => exact .inr (.inr rfl)

end Sys2Proof.Machine
end

section
/-! SUPPORT. The moves of the whole machine: every step is one of nine kinds of move of the core (00_scope.md R13,
20_memory.md R62, 44_control.md R210, R213, 70_reset_and_hazards.md R250). -/

namespace Sys2Proof.Machine

/-- What a move makes of the state `s`, whose list of turns has already advanced. The host's side (`hostProg`, `replies`)
is pinned down only where a command is accepted. -/
inductive CoreMove (s : State) : State → Prop
  /-- Nobody moves, or the move has no effect. -/
  | still : CoreMove s s
  /-- The engine's completion step. -/
  | complete (hr : s.inReset = false) : CoreMove s (engineStep s)
  /-- A hidden micro-step. -/
  | micro (hr : s.inReset = false) : CoreMove s (microStep s)
  /-- The reset input is asserted. -/
  | assertReset : CoreMove s { s with inReset := true }
  /-- The reset input is deasserted. -/
  | leaveReset (hr : s.inReset = true) : CoreMove s (resetCore s)
  /-- The host reads a register: at most the FIFO gets shorter. -/
  | read (q : List Byte) (ops : List HostOp) (replies : List Reply) (hq : q.length ≤ s.outq.length) :
      CoreMove s { s with outq := q, hostProg := ops, replies := replies }
  /-- The host writes a register other than `CMD`: at most `KEY` or `DIN` changes. -/
  | store (key din : Block) (ops : List HostOp) : CoreMove s { s with key := key, din := din, hostProg := ops }
  /-- The host writes a word to `CMD` and it is rejected. -/
  | reject (code : ErrCode) (ops : List HostOp) (hc : code ≠ .none) :
      CoreMove s (raiseError code { s with hostProg := ops })
  /-- The host writes a command word to `CMD` and the command is accepted. -/
  | command (i : Instr) (data : BitVec 64) (ops : List HostOp)
      (hp : s.hostProg = .wr (s.cfg.base + Reg.cmd.offset) .w32 data :: ops) (hd : decode (data.setWidth 32) = .ok i)
      (hb : s.busy = false) (hc : firstError (checksOf i s) = none) :
      CoreMove s (effectOf i { s with hostProg := ops })

theorem offset_regAt : ∀ off < 64, off % 4 = 0 → (regAt off).offset = off := by decide

/-- The address of an admitted access is that of the register it reaches, and its width is 32 bits. -/
theorem addr_of_admits (c : Config) (addr : Nat) (width : Width) (h : c.admits addr width = true) :
    addr = c.base + (regAt (addr - c.base)).offset ∧ width = .w32 := by
  simp only [Config.admits, Config.inWindow, Bool.and_eq_true, decide_eq_true_eq, beq_iff_eq] at h
  obtain ⟨⟨⟨hlo, hhi⟩, hw⟩, hal⟩ := h
  refine ⟨?_, hw⟩
  rw [offset_regAt (addr - c.base) (by omega) hal]
  omega

/-- An access that answers a next state reached the register of its address, and was 32 bits wide. -/
theorem access_next (addr : Nat) (width : Width) (s t : State) (reach : Reg → Result)
    (h : access addr width s reach = .next t) :
    ∃ reg : Reg, addr = s.cfg.base + reg.offset ∧ width = .w32 ∧ reach reg = .next t := by
  rcases access_cases addr width s reach with ⟨f, hf⟩ | ⟨r, hr⟩ | ⟨-, ha, he⟩
  · rw [hf] at h; cases h
  · rw [hr] at h; cases h
  · obtain ⟨haddr, hw⟩ := addr_of_admits s.cfg addr width ha
    exact ⟨_, haddr, hw, he ▸ h⟩

/-- All that a write of a register can do: store an operand half or nothing, record an error, or have the effect of
the command the word decodes to. -/
theorem writeReg_cases (reg : Reg) (v : Word) (s t : State) (h : writeReg reg v s = .next t) :
    (∃ key din, t = { s with key := key, din := din }) ∨
    (∃ code, code ≠ .none ∧ t = raiseError code s) ∨
    (∃ i, reg = .cmd ∧ decode v = .ok i ∧ s.busy = false ∧ firstError (checksOf i s) = none ∧ t = effectOf i s) := by
  cases reg with
  | cmd =>
    rcases issueCommand_cases v s with ⟨code, hc, -, he⟩ | ⟨i, hd, hb, hc, he⟩
    · exact .inr (.inl ⟨code, hc, Host.Outcome.next.inj (h.symm.trans he)⟩)
    · exact .inr (.inr ⟨i, rfl, hd, hb, hc, Host.Outcome.next.inj (h.symm.trans he)⟩)
  | _ => exact .inl ⟨_, _, (Host.Outcome.next.inj h).symm⟩

theorem checksOf_hostProg (i : Instr) (s : State) (ops : List HostOp) :
    checksOf i { s with hostProg := ops } = checksOf i s := by cases i <;> rfl

theorem busRead_move (addr : Nat) (width : Width) (ops : List HostOp) (s t : State)
    (h : busRead addr width { s with hostProg := ops } = .next t) : CoreMove s t := by
  obtain ⟨reg, -, -, h⟩ := access_next _ _ _ _ _ h
  obtain ⟨q, hq, hlen⟩ := readReg_state reg { s with hostProg := ops }
  rw [hq] at h
  cases h
  exact .read q ops _ hlen

theorem pollRead_move (addr : Nat) (mask want : Word) (ops : List HostOp) (s t : State)
    (h : pollRead addr mask want { s with hostProg := ops } = .next t) : CoreMove s t := by
  obtain ⟨reg, -, -, h⟩ := access_next _ _ _ _ _ h
  obtain ⟨q, hq, hlen⟩ := readReg_state reg { s with hostProg := ops }
  simp only [hq] at h
  split at h <;> cases h <;> exact .read q _ _ hlen

theorem busWrite_move (addr : Nat) (width : Width) (data : BitVec 64) (ops : List HostOp) (s t : State)
    (hp : s.hostProg = .wr addr width data :: ops)
    (h : busWrite addr width data { s with hostProg := ops } = .next t) : CoreMove s t := by
  obtain ⟨reg, haddr, hw, h⟩ := access_next _ _ _ _ _ h
  rcases writeReg_cases reg _ _ t h with ⟨key, din, rfl⟩ | ⟨code, hc, rfl⟩ | ⟨i, hreg, hd, hb, hc, rfl⟩
  · exact .store key din ops
  · exact .reject code ops hc
  · subst haddr hw hreg
    exact .command i data ops hp hd hb (checksOf_hostProg i s ops ▸ hc)

theorem hostTurn_move (s t : State) (h : hostTurn s = .next t) : CoreMove s t := by
  rcases hostTurn_cases s t h with ⟨-, rfl⟩ | ⟨addr, width, ops, -, h⟩ | ⟨addr, width, data, ops, hp, h⟩ |
    ⟨addr, mask, want, ops, -, h⟩
  · exact .still
  · exact busRead_move addr width ops s t h
  · exact busWrite_move addr width data ops s t hp h
  · exact pollRead_move addr mask want ops s t h

theorem engineTurn_move (s : State) : CoreMove s (engineTurn s) := by
  cases hr : s.inReset with
  | false => rw [engineTurn_of_running s hr]; exact .complete hr
  | true => rw [engineTurn_of_reset s hr]; exact .still

theorem microTurn_move (s : State) : CoreMove s (microTurn s) := by
  cases hr : s.inReset with
  | false => rw [microTurn_of_running s hr]; exact .micro hr
  | true => rw [microTurn_of_reset s hr]; exact .still

theorem resetTurn_move (level : Bool) (s : State) : CoreMove s (resetTurn level s) := by
  cases level with
  | true => exact .assertReset
  | false =>
    cases hr : s.inReset with
    | false => simp only [resetTurn, hr, Bool.false_eq_true, if_false]; exact .still
    | true => simp only [resetTurn, hr, Bool.false_eq_true, if_true, if_false]; exact .leaveReset hr

theorem takeTurn_move (turn : Turn) (s t : State) (h : takeTurn turn s = .next t) : CoreMove s t := by
  cases turn with
  | host => exact hostTurn_move s t h
  | engine => cases h; exact engineTurn_move s
  | micro => cases h; exact microTurn_move s
  | reset level => cases h; exact resetTurn_move level s

/-- All that a step can do: the list of turns advances, and the core makes one move. -/
theorem step_move (s t : State) (h : step s = .next t) : ∃ ts, CoreMove { s with turns := ts } t := by
  rcases step_cases s t h with ⟨turn, rest, -, h⟩ | ⟨-, -, rfl⟩ | ⟨-, hr, -, rfl⟩ | ⟨-, -, -, h⟩
  · exact ⟨rest, takeTurn_move turn _ t h⟩
  · exact ⟨_, .still⟩
  · exact ⟨_, .complete hr⟩
  · exact ⟨_, hostTurn_move s t h⟩

end Sys2Proof.Machine
end

section
/-! SUPPORT. What only one kind of move changes (10_state.md R23, R32, R33, R35, R40). -/

namespace Sys2Proof.Machine

section

variable {s t : State}

theorem CoreMove.cfg_eq (h : CoreMove s t) : t.cfg = s.cfg := by
  cases h with
  | complete => exact engineStep_cfg s
  | micro => obtain ⟨_, _, _, _, _, _, _, h⟩ := microStep_frame s; rw [h]
  | command i data ops => rw [effectOf_frame]
  | _ => rfl

/-- `KS` changes only at a KEYSET job's completion, or when reset ends. -/
theorem CoreMove.ks_eq (h : CoreMove s t) :
    t.ks = s.ks ∨ (s.job = .keyset ∧ t = completeKeyset s) ∨ (s.inReset = true ∧ t = resetCore s) := by
  cases h with
  | complete =>
    by_cases hj : s.job = .keyset
    · exact .inr (.inl ⟨hj, engineStep_of_keyset s hj⟩)
    · exact .inl (engineStep_ks s hj)
  | micro => obtain ⟨_, _, _, _, _, _, _, h⟩ := microStep_frame s; exact .inl (by rw [h])
  | leaveReset hr => exact .inr (.inr ⟨hr, rfl⟩)
  | command i data ops => exact .inl (by rw [effectOf_frame])
  | _ => exact .inl rfl

/-- `DOUT` changes only at a block job's completion, or when reset ends. -/
theorem CoreMove.dout_eq (h : CoreMove s t) :
    t.dout = s.dout ∨ (s.job = .encb ∧ t = completeEncb s) ∨ (s.job = .decb ∧ t = completeDecb s) ∨
    (s.inReset = true ∧ t = resetCore s) := by
  cases h with
  | complete =>
    by_cases he : s.job = .encb
    · exact .inr (.inl ⟨he, engineStep_of_encb s he⟩)
    · by_cases hd : s.job = .decb
      · exact .inr (.inr (.inl ⟨hd, engineStep_of_decb s hd⟩))
      · exact .inl (engineStep_dout s he hd)
  | micro => obtain ⟨_, _, _, _, _, _, _, h⟩ := microStep_frame s; exact .inl (by rw [h])
  | leaveReset hr => exact .inr (.inr (.inr ⟨hr, rfl⟩))
  | command i data ops => exact .inl (by rw [effectOf_frame])
  | _ => exact .inl rfl

/-- `FR_BYTECNT` changes only when a command is accepted, or when reset ends. -/
theorem CoreMove.frByteCnt_eq (h : CoreMove s t) :
    t.frByteCnt = s.frByteCnt ∨
    (∃ i data ops, s.hostProg = .wr (s.cfg.base + Reg.cmd.offset) .w32 data :: ops ∧
      decode (data.setWidth 32) = .ok i ∧ t = effectOf i { s with hostProg := ops }) ∨
    (s.inReset = true ∧ t = resetCore s) := by
  cases h with
  | complete => exact .inl (engineStep_frByteCnt s)
  | micro => obtain ⟨_, _, _, _, _, _, _, h⟩ := microStep_frame s; exact .inl (by rw [h])
  | leaveReset hr => exact .inr (.inr ⟨hr, rfl⟩)
  | command i data ops hp hd => exact .inr (.inl ⟨i, data, ops, hp, hd, rfl⟩)
  | _ => exact .inl rfl

/-- A move that begins and ends with a job pending keeps the job and its latch. -/
theorem CoreMove.job_eq (h : CoreMove s t) (hs : s.busy = true) (ht : t.busy = true) :
    t.job = s.job ∧ t.jin = s.jin := by
  cases h with
  | complete => rw [engineStep_busy] at ht; cases ht
  | micro => obtain ⟨_, _, _, _, _, _, _, h⟩ := microStep_frame s; rw [h]; exact ⟨rfl, rfl⟩
  | leaveReset => cases ht
  | command i data ops hp hd hb => rw [hb] at hs; cases hs
  | _ => exact ⟨rfl, rfl⟩

end

theorem issueCommand_of_busy (w : Word) (s : State) (h : s.busy = true) :
    issueCommand w s = .next (raiseError .busy s) := by
  simp only [issueCommand, h, if_true]

/-- Settles O48: of all moves only KEYSET's completion and the end of a reset write `KS`. -/
theorem onlyKeysetCompletionWritesSubkeys : Obligations.OnlyKeysetCompletionWritesSubkeys := by
  intro s t h hne
  obtain ⟨ts, hm⟩ := step_move s t h
  rcases hm.ks_eq with hks | ⟨hj, rfl⟩ | ⟨hr, rfl⟩
  · exact absurd hks hne
  · exact .inl ⟨hj, rfl, rfl, rfl⟩
  · exact .inr ⟨hr, rfl⟩

/-- Settles O49: of all moves only ENCB's and DECB's completions and the end of a reset write `DOUT`. -/
theorem onlyBlockCompletionWritesDout : Obligations.OnlyBlockCompletionWritesDout := by
  intro s t h hne
  obtain ⟨ts, hm⟩ := step_move s t h
  rcases hm.dout_eq with hd | ⟨hj, rfl⟩ | ⟨hj, rfl⟩ | ⟨hr, rfl⟩
  · exact absurd hd hne
  · exact .inl ⟨hj, rfl, rfl⟩
  · exact .inr (.inl ⟨hj, rfl, rfl⟩)
  · exact .inr (.inr ⟨hr, rfl⟩)

/-- Settles O50: of all moves only an accepted command and the end of a reset write `FR_BYTECNT`, and of the commands
only a push and an open. -/
theorem onlyPushAndOpenChangeTheByteCount : Obligations.OnlyPushAndOpenChangeTheByteCount := by
  intro s t h hne
  obtain ⟨ts, hm⟩ := step_move s t h
  rcases hm.frByteCnt_eq with hcnt | ⟨i, data, ops, hp, hd, rfl⟩ | ⟨hr, rfl⟩
  · exact absurd hcnt hne
  · refine .inl ⟨i, data, ops, hp, by rw [effectOf_frame], hd, ?_⟩
    rcases effectOf_frByteCnt i { s with turns := ts, hostProg := ops } with hpush | hopen | hsame
    · exact .inl hpush
    · exact .inr hopen
    · exact absurd hsame hne
  · exact .inr ⟨hr, rfl, rfl⟩

/-- Settles O51: a command is accepted only while no job is pending, and no other move latches a job. -/
theorem pendingJobIsNeverReplaced : Obligations.PendingJobIsNeverReplaced := by
  refine ⟨fun s t hs h ht => ?_, fun s w hs => issueCommand_of_busy w s hs⟩
  obtain ⟨ts, hm⟩ := step_move s t h
  exact hm.job_eq hs ht

/-- Settles O52: no move touches the parameters, and `CONFIG` is a view of them. -/
theorem parametersNeverChange : Obligations.ParametersNeverChange := by
  intro s t h
  obtain ⟨ts, hm⟩ := step_move s t h
  have hcfg : t.cfg = s.cfg := hm.cfg_eq
  exact ⟨hcfg, rfl, congrArg configWord hcfg⟩

end Sys2Proof.Machine
end

section
/-! SUPPORT. The invariant of 10_state.md R48 holds at reset and every move keeps it. -/

namespace Sys2Proof.Machine

/-- The fields the invariant speaks of. -/
def State.control (s : State) :=
  (s.cfg, s.keyValid, s.frMode, s.errCode, s.errOvf, s.bufCount, s.laValid, s.outq, s.job)

theorem State.Inv.of_control_eq {s t : State} (hs : s.Inv) (h : t.control = s.control) : t.Inv := by
  cases s
  cases t
  simp only [State.control, Prod.mk.injEq] at h
  obtain ⟨rfl, rfl, rfl, rfl, rfl, rfl, rfl, rfl, rfl⟩ := h
  exact { hs with spec := { hs.spec with } }

/-- With no job pending, five clauses of R48 and the parameters are the whole invariant. -/
theorem inv_of_idle (s : State) (hj : s.job = .none) (hcfg : s.cfg.wf = true)
    (hkey : s.frMode ≠ .idle → s.keyValid = true) (hla : s.laValid = true → s.frMode = .dec)
    (hidle : s.frMode = .idle → s.bufCount = 0 ∧ s.laValid = false) (hq : s.outq.length ≤ s.cfg.outDepth)
    (hovf : s.errOvf = true → s.errCode ≠ .none) : s.Inv where
  spec := {
    busy_iff_job := busy_eq_true_iff s
    open_has_key := fun hm => ⟨hkey hm, by rw [hj]; decide⟩
    la_only_dec := hla
    idle_is_empty := hidle
    outq_bounded := hq
    job_has_mode := by simp [hj]
    ovf_has_code := hovf }
  cfg_wf := hcfg
  job_has_room := by simp [hj, Job.isFramer]
  job_chunk_empty := by simp [hj, Job.isFramer]
  block_job_has_key := fun hb => absurd hj ((busy_eq_true_iff s).1 hb)

/-- With no job pending and no stream open, the chunk and the lookahead are empty. -/
theorem inv_of_closed (s : State) (hj : s.job = .none) (hcfg : s.cfg.wf = true) (hm : s.frMode = .idle)
    (hchunk : s.bufCount = 0) (hla : s.laValid = false) (hq : s.outq.length ≤ s.cfg.outDepth)
    (hovf : s.errOvf = true → s.errCode ≠ .none) : s.Inv :=
  inv_of_idle s hj hcfg (fun h => absurd hm h) (fun h => absurd (hla.symm.trans h) Bool.false_ne_true)
    (fun _ => ⟨hchunk, hla⟩) hq hovf

/-- A job may be latched on any state that meets the invariant and what the job needs. -/
theorem State.Inv.latchJob {s : State} (hs : s.Inv) (j : Job) (x : Block)
    (hkeyset : j = .keyset → s.frMode = .idle) (hkey : j ≠ .keyset → s.keyValid = true)
    (hmode : (j = .frEnc ∨ j = .frEncFinal → s.frMode = .enc) ∧ (j = .frDec → s.frMode = .dec))
    (hroom : j.isFramer = true → s.outq.length + 8 ≤ s.cfg.outDepth) (hchunk : j.isFramer = true → s.bufCount = 0) :
    (latchJob j x s).Inv where
  spec := {
    busy_iff_job := busy_eq_true_iff _
    open_has_key := fun hm => ⟨(hs.spec.open_has_key hm).1, fun hj => hm (hkeyset hj)⟩
    la_only_dec := hs.spec.la_only_dec
    idle_is_empty := hs.spec.idle_is_empty
    outq_bounded := hs.spec.outq_bounded
    job_has_mode := hmode
    ovf_has_code := hs.spec.ovf_has_code }
  cfg_wf := hs.cfg_wf
  job_has_room := hroom
  job_chunk_empty := hchunk
  block_job_has_key := fun _ => hkey

/-- A job that is not the framer's needs no more than a session, or, for KEYSET, that no stream is open. -/
theorem State.Inv.latchNonFramer {s : State} (hs : s.Inv) (j : Job) (x : Block) (hj : j.isFramer = false)
    (hkeyset : j = .keyset → s.frMode = .idle) (hkey : j ≠ .keyset → s.keyValid = true) :
    (Machine.latchJob j x s).Inv := by
  have hno : ∀ {p : Prop}, j.isFramer = true → p := fun h => absurd (hj.symm.trans h) Bool.false_ne_true
  refine hs.latchJob j x hkeyset hkey ⟨?_, ?_⟩ hno hno
  · rintro (rfl | rfl) <;> exact hno rfl
  · rintro rfl
    exact hno rfl

/-! The moves of the host's accesses. -/

/-- Shortening the FIFO keeps the invariant (43_stream_framer.md R180). -/
theorem State.Inv.shorten_outq {s : State} (hs : s.Inv) (q : List Byte) (hq : q.length ≤ s.outq.length) :
    State.Inv { s with outq := q } where
  spec := { hs.spec with outq_bounded := Nat.le_trans hq hs.spec.outq_bounded }
  cfg_wf := hs.cfg_wf
  job_has_room := fun hj => Nat.le_trans (Nat.add_le_add_right hq 8) (hs.job_has_room hj)
  job_chunk_empty := hs.job_chunk_empty
  block_job_has_key := hs.block_job_has_key

theorem State.Inv.raiseError {s : State} (hs : s.Inv) (code : ErrCode) (hc : code ≠ .none) :
    (raiseError code s).Inv where
  spec := { hs.spec with ovf_has_code := fun _ => recordedCode_ne_none s.errCode code hc }
  cfg_wf := hs.cfg_wf
  job_has_room := hs.job_has_room
  job_chunk_empty := hs.job_chunk_empty
  block_job_has_key := hs.block_job_has_key

/-! The engine's moves. -/

theorem State.Inv.microStep {s : State} (hs : s.Inv) : (microStep s).Inv := by
  obtain ⟨_, _, _, _, _, _, _, h⟩ := microStep_frame s
  exact hs.of_control_eq (by rw [h]; rfl)

/-- At most 8 bytes fit where there is room for 8. -/
theorem pushOut_fits (s : State) (bytes : List Byte) (hlen : bytes.length ≤ 8)
    (hroom : s.outq.length + 8 ≤ s.cfg.outDepth) : (pushOut bytes s).outq.length ≤ s.cfg.outDepth := by
  rw [pushOut_outq, List.length_append]
  omega

/-- Ending the job keeps the invariant, whatever the FIFO then holds, if it fits. -/
theorem State.Inv.endJob {s : State} (hs : s.Inv) (q : List Byte) (hq : q.length ≤ s.cfg.outDepth) :
    State.Inv { s with job := .none, outq := q } :=
  inv_of_idle _ rfl hs.cfg_wf (fun hm => (hs.spec.open_has_key hm).1) hs.spec.la_only_dec hs.spec.idle_is_empty hq
    hs.spec.ovf_has_code

theorem State.Inv.completeKeyset {s : State} (hs : s.Inv) : (completeKeyset s).Inv := by
  have hended : State.Inv { s with job := .none, keyValid := true } :=
    inv_of_idle _ rfl hs.cfg_wf (fun _ => rfl) hs.spec.la_only_dec hs.spec.idle_is_empty hs.spec.outq_bounded
      hs.spec.ovf_has_code
  exact hended.of_control_eq (by simp [State.control, Machine.completeKeyset, settleSchedule])

theorem State.Inv.completeFrDec {s : State} (hs : s.Inv) (hj : s.job = .frDec) : (completeFrDec s).Inv := by
  have hmode : s.frMode = .dec := hs.spec.job_has_mode.2 hj
  have hroom := hs.job_has_room (by rw [hj]; rfl)
  have hlen : (if s.laValid then blockBytes s.la else []).length ≤ 8 := by split <;> simp [blockBytes_length]
  have hheld : State.Inv
      { s with job := .none, outq := s.outq ++ (if s.laValid then blockBytes s.la else []), laValid := true } :=
    inv_of_idle _ rfl hs.cfg_wf (fun hm => (hs.spec.open_has_key hm).1) (fun _ => hmode)
      (fun hm => absurd (hmode.symm.trans hm) (by decide)) (pushOut_fits s _ hlen hroom) hs.spec.ovf_has_code
  exact hheld.of_control_eq (by simp [State.control, Machine.completeFrDec, settleRounds])

theorem State.Inv.completeFrEncFinal {s : State} (hs : s.Inv) (hj : s.job = .frEncFinal) :
    (completeFrEncFinal s).Inv := by
  have hmode : s.frMode = .enc := hs.spec.job_has_mode.1 (.inr hj)
  have hnola : s.laValid = false :=
    Bool.eq_false_iff.2 fun h => absurd (hmode.symm.trans (hs.spec.la_only_dec h)) (by decide)
  have hroom := hs.job_has_room (by rw [hj]; rfl)
  have hclosed : State.Inv
      { s with job := .none, outq := s.outq ++ blockBytes (encrypt s.ks s.jin), frMode := .idle } :=
    inv_of_closed _ rfl hs.cfg_wf rfl (hs.job_chunk_empty (by rw [hj]; rfl)) hnola
      (pushOut_fits s _ (blockBytes_length _).le hroom) hs.spec.ovf_has_code
  exact hclosed.of_control_eq (by simp [State.control, Machine.completeFrEncFinal, settleRounds])

/-- A completion step keeps the invariant: a framer job was accepted with room for its 8 bytes and an empty chunk
(43_stream_framer.md R174 to R176). -/
theorem State.Inv.engineStep {s : State} (hs : s.Inv) : (engineStep s).Inv := by
  have hended := hs.endJob s.outq hs.spec.outq_bounded
  cases hj : s.job with
  | none => rwa [engineStep_of_idle s hj]
  | keyset => rw [engineStep_of_keyset s hj]; exact hs.completeKeyset
  | encb =>
    rw [engineStep_of_encb s hj]
    exact hended.of_control_eq (by simp [State.control, completeEncb, settleRounds])
  | decb =>
    rw [engineStep_of_decb s hj]
    exact hended.of_control_eq (by simp [State.control, completeDecb, settleRounds])
  | frEnc =>
    rw [engineStep_of_frEnc s hj]
    have hroom := hs.job_has_room (by rw [hj]; rfl)
    have hemitted := hs.endJob _ (pushOut_fits s _ (blockBytes_length (encrypt s.ks s.jin)).le hroom)
    exact hemitted.of_control_eq (by simp [State.control, completeFrEnc, settleRounds])
  | frDec => rw [engineStep_of_frDec s hj]; exact hs.completeFrDec hj
  | frEncFinal => rw [engineStep_of_frEncFinal s hj]; exact hs.completeFrEncFinal hj

/-! The accepted commands, by what their checks let through. -/

theorem firstError_cons_eq_none (b : Bool) (code : ErrCode) (checks : List (Bool × ErrCode)) :
    firstError ((b, code) :: checks) = none ↔ b = false ∧ firstError checks = none := by
  cases b <;> simp

theorem openChecks_pass (s : State) (h : firstError (openChecks s) = none) :
    s.keyValid = true ∧ s.frMode = .idle := by
  simpa [openChecks, firstError_cons_eq_none, -firstError_cons] using h

/-- A stream is open, and there is room for 8 bytes (10_state.md R26). -/
theorem streamChecks_pass (s : State) (h : firstError (streamChecks s) = none) :
    s.frMode ≠ .idle ∧ s.outq.length + 8 ≤ s.cfg.outDepth := by
  have h' : s.frMode ≠ .idle ∧ 8 ≤ s.cfg.outDepth - s.outq.length := by
    simpa [streamChecks, State.inReady, firstError_cons_eq_none, -firstError_cons] using h
  exact ⟨h'.1, by omega⟩

theorem chunkJob_mode (m : FrMode) (hm : m ≠ .idle) :
    m.chunkJob ≠ .keyset ∧ (m.chunkJob = .frEnc ∨ m.chunkJob = .frEncFinal → m = .enc) ∧
    (m.chunkJob = .frDec → m = .dec) := by
  cases m with
  | idle => exact absurd rfl hm
  | enc => decide
  | dec => decide

theorem State.Inv.streamFatal {s : State} (hs : s.Inv) (hj : s.job = .none) (code : ErrCode) (hc : code ≠ .none) :
    (streamFatal code s).Inv :=
  inv_of_closed _ hj hs.cfg_wf rfl rfl rfl (Nat.zero_le _) (fun _ => recordedCode_ne_none s.errCode code hc)

theorem State.Inv.startKeyset {s : State} (hs : s.Inv) (hj : s.job = .none) (hm : s.frMode = .idle) :
    (startKeyset s).Inv := by
  have hended : State.Inv { s with keyValid := false } :=
    inv_of_idle _ hj hs.cfg_wf (fun h => absurd hm h) hs.spec.la_only_dec hs.spec.idle_is_empty
      hs.spec.outq_bounded hs.spec.ovf_has_code
  exact hended.latchNonFramer .keyset s.key rfl (fun _ => hm) (fun h => absurd rfl h)

theorem State.Inv.openStream {s : State} (hs : s.Inv) (hj : s.job = .none) (hk : s.keyValid = true) (mode : FrMode) :
    (openStream mode s).Inv :=
  inv_of_idle _ hj hs.cfg_wf (fun _ => hk) (fun h => absurd h Bool.false_ne_true) (fun _ => ⟨rfl, rfl⟩)
    hs.spec.outq_bounded hs.spec.ovf_has_code

theorem State.Inv.pushByte {s : State} (hs : s.Inv) (hj : s.job = .none) (hm : s.frMode ≠ .idle)
    (hroom : s.outq.length + 8 ≤ s.cfg.outDepth) (b : Byte) : (pushByte b s).Inv := by
  obtain ⟨hk, -⟩ := hs.spec.open_has_key hm
  have hstored : ∀ n : Fin 8, State.Inv
      { s with buf := s.buf.set s.bufCount b, frByteCnt := s.frByteCnt + 1, bufCount := n } := fun n =>
    inv_of_idle _ hj hs.cfg_wf (fun _ => hk) hs.spec.la_only_dec (fun h => absurd h hm) hs.spec.outq_bounded
      hs.spec.ovf_has_code
  by_cases hfull : s.bufCount = 7
  · rw [pushByte_of_full b s hfull]
    obtain ⟨hjob, hmode⟩ := chunkJob_mode s.frMode hm
    exact (hstored 0).latchJob _ _ (fun h => absurd h hjob) (fun _ => hk) hmode (fun _ => hroom) (fun _ => rfl)
  · rw [pushByte_of_room b s hfull]
    exact hstored _

theorem State.Inv.finalStream {s : State} (hs : s.Inv) (hj : s.job = .none) (hm : s.frMode ≠ .idle)
    (hroom : s.outq.length + 8 ≤ s.cfg.outDepth) : (finalStream s).Inv := by
  obtain ⟨hk, -⟩ := hs.spec.open_has_key hm
  by_cases henc : s.frMode = .enc
  · rw [finalStream_of_enc s henc]
    have hpadded : State.Inv { s with buf := padChunk s.buf s.bufCount, bufCount := 0 } :=
      inv_of_idle _ hj hs.cfg_wf (fun _ => hk) hs.spec.la_only_dec (fun h => absurd h hm) hs.spec.outq_bounded
        hs.spec.ovf_has_code
    exact hpadded.latchJob .frEncFinal _ (fun h => absurd h (by decide)) (fun _ => hk)
      ⟨fun _ => henc, fun h => absurd h (by decide)⟩ (fun _ => hroom) (fun _ => rfl)
  · by_cases herr : s.bufCount ≠ 0 ∨ s.laValid = false
    · rw [finalStream_of_lengthError s henc herr]
      exact hs.streamFatal hj .length (by decide)
    · rw [finalStream_of_strip s henc herr]
      have hchunk : s.bufCount = 0 := not_not.1 (not_or.1 herr).1
      have hfit := pushOut_fits s ((blockBytes s.la).take (stripLen s.cfg.padStripMax s.la))
        (List.length_take_le' _ _) hroom
      exact inv_of_closed _ hj hs.cfg_wf rfl hchunk rfl hfit hs.spec.ovf_has_code

theorem State.Inv.abortStream {s : State} (hs : s.Inv) (hj : s.job = .none) : (abortStream s).Inv := by
  by_cases hm : s.frMode = .idle
  · rwa [abortStream_of_idle s hm]
  · rw [abortStream_of_open s hm]
    exact hs.streamFatal hj .io (by decide)

/-- Every accepted command keeps the invariant. -/
theorem State.Inv.effectOf {s : State} (hs : s.Inv) (i : Instr) (hj : s.job = .none)
    (hc : firstError (checksOf i s) = none) : (effectOf i s).Inv := by
  cases i with
  | nop => exact hs
  | keyset => exact hs.startKeyset hj (by simpa [checksOf] using hc)
  | encb =>
    have hk : s.keyValid = true := by simpa [checksOf] using hc
    exact hs.latchNonFramer .encb s.din rfl (fun h => absurd h (by decide)) (fun _ => hk)
  | decb =>
    have hk : s.keyValid = true := by simpa [checksOf] using hc
    exact hs.latchNonFramer .decb s.din rfl (fun h => absurd h (by decide)) (fun _ => hk)
  | clrerr =>
    exact inv_of_idle _ hj hs.cfg_wf (fun hm => (hs.spec.open_has_key hm).1) hs.spec.la_only_dec
      hs.spec.idle_is_empty hs.spec.outq_bounded (fun h => absurd h Bool.false_ne_true)
  | frOpenEnc => exact hs.openStream hj (openChecks_pass s hc).1 .enc
  | frOpenDec => exact hs.openStream hj (openChecks_pass s hc).1 .dec
  | frPush b =>
    obtain ⟨hm, hroom⟩ := streamChecks_pass s hc
    exact hs.pushByte hj hm hroom b
  | frFinal =>
    obtain ⟨hm, hroom⟩ := streamChecks_pass s hc
    exact hs.finalStream hj hm hroom
  | frAbort => exact hs.abortStream hj

/-! The reset. -/

theorem State.Inv.resetCore {s : State} (hs : s.Inv) : (resetCore s).Inv :=
  inv_of_closed _ rfl hs.cfg_wf rfl rfl rfl (Nat.zero_le _) (fun h => absurd h Bool.false_ne_true)

/-- Settles O46: the reset state has no job, no stream, no error and an empty FIFO. -/
theorem resetMeetsTheInvariant : Obligations.ResetMeetsTheInvariant := fun _ hc =>
  inv_of_closed _ rfl hc rfl rfl rfl (Nat.zero_le _) (fun h => absurd h Bool.false_ne_true)

/-! Every move, every step, every run. -/

theorem CoreMove.keeps_inv {s t : State} (h : CoreMove s t) (hs : s.Inv) : t.Inv := by
  cases h with
  | still => exact hs
  | complete => exact hs.engineStep
  | micro => exact hs.microStep
  | assertReset => exact hs.of_control_eq rfl
  | leaveReset => exact hs.resetCore
  | read q ops replies hq => exact (hs.shorten_outq q hq).of_control_eq rfl
  | store => exact hs.of_control_eq rfl
  | reject code ops hc =>
    have hpop : State.Inv { s with hostProg := ops } := hs.of_control_eq rfl
    exact hpop.raiseError code hc
  | command i data ops hp hd hb hc =>
    have hpop : State.Inv { s with hostProg := ops } := hs.of_control_eq rfl
    exact hpop.effectOf i ((busy_eq_false_iff s).1 hb) (by rwa [checksOf_hostProg])

/-- Settles O45: every step is a move of the core, and every move keeps the invariant. -/
theorem everyStepKeepsTheInvariant : Obligations.EveryStepKeepsTheInvariant := by
  intro s t hs h
  obtain ⟨ts, hm⟩ := step_move s t h
  exact hm.keeps_inv (hs.of_control_eq rfl)

/-- A property that every step keeps holds after any run from a state that has it. -/
theorem run_keeps (P : State → Prop) (hstep : ∀ s t, P s → step s = .next t → P t) (n : Nat) (s t : State)
    (hs : P s) (h : Sys2Proof.core.run n s = .next t) : P t := by
  induction n generalizing s with
  | zero => cases h; exact hs
  | succ n ih =>
    obtain ⟨u, hsu, hut⟩ := run_succ_inv n s t h
    exact ih u (hstep s u hs hsu) hut

/-- Settles O47: the invariant holds at reset and every step keeps it, so it holds after every run. -/
theorem reachableStatesMeetR48 : Obligations.ReachableStatesMeetR48 := by
  intro c ops turns n t hc h
  have hreset : State.Inv { State.reset with cfg := c, hostProg := ops, turns := turns } :=
    (resetMeetsTheInvariant c hc).of_control_eq rfl
  exact (run_keeps State.Inv everyStepKeepsTheInvariant n _ t hreset h).spec

end Sys2Proof.Machine
end

section
/-! SUPPORT. The words the register window shows: the layout of `STATUS`, the value of every register read, and the
reset state (10_state.md R20 to R36, R50). -/

namespace Sys2Proof.Machine

/-- A one-bit field is a bit. -/
theorem getLsbD_of_field {w : Nat} {x : BitVec w} {k : Nat} {b : Bool} (h : x.extractLsb' k 1 = BitVec.ofBool b) :
    x.getLsbD k = b := by
  simpa using congrArg (BitVec.getLsbD · 0) h

/-- Every field of `STATUS` at its bits, from bit 0 up (10_state.md R22). -/
theorem statusWord_fields (s : State) :
    s.statusWord.extractLsb' 0 1 = BitVec.ofBool s.busy ∧
    s.statusWord.extractLsb' 1 1 = BitVec.ofBool s.keyValid ∧
    s.statusWord.extractLsb' 2 2 = s.frMode.bits ∧
    s.statusWord.extractLsb' 4 1 = BitVec.ofBool s.inReady ∧
    s.statusWord.extractLsb' 5 1 = BitVec.ofBool s.outAvail ∧
    s.statusWord.extractLsb' 6 1 = BitVec.ofBool s.frDone ∧
    s.statusWord.extractLsb' 7 1 = BitVec.ofBool s.err ∧
    s.statusWord.extractLsb' 8 4 = s.errCode.bits ∧
    s.statusWord.extractLsb' 12 1 = BitVec.ofBool s.errOvf ∧
    s.statusWord.extractLsb' 13 3 = 0#3 ∧
    s.statusWord.extractLsb' 16 8 = BitVec.ofNat 8 s.outq.length ∧
    s.statusWord.extractLsb' 24 3 = BitVec.ofNat 3 s.bufCount.val ∧
    s.statusWord.extractLsb' 27 1 = BitVec.ofBool s.laValid ∧
    s.statusWord.extractLsb' 28 4 = 0#4 := by
  unfold State.statusWord
  refine ⟨?_, ?_, ?_, ?_, ?_, ?_, ?_, ?_, ?_, ?_, ?_, ?_, ?_, ?_⟩ <;>
    simp (disch := decide) only [BitVec.extractLsb'_append_eq_of_le, BitVec.extractLsb'_append_eq_of_add_le] <;>
    exact BitVec.extractLsb'_eq_self

/-- At reset only `IN_READY` is set: an empty FIFO of legal depth has room for 8 bytes. -/
theorem statusWord_reset (c : Config) (hc : c.wf = true) :
    ({ State.reset with cfg := c }).statusWord = 0x00000010 := by
  have hdepth : 8 ≤ c.outDepth := by
    simp only [Config.wf, Bool.and_eq_true, decide_eq_true_eq] at hc
    exact hc.1.2.1
  have hready : ({ State.reset with cfg := c }).inReady = true := decide_eq_true hdepth
  calc ({ State.reset with cfg := c }).statusWord
      _ = State.reset.statusWord := by rw [State.statusWord, hready]; rfl
      _ = 0x00000010 := by decide

/-- Settles O37: `STATUS` is the fields side by side, and no access of it touches the state. -/
theorem statusFieldsAreWhereR22PutsThem : Obligations.StatusFieldsAreWhereR22PutsThem := by
  refine ⟨fun s hlen => ?_, statusWord_reset⟩
  obtain ⟨hbusy, hkey, hmode, hready, havail, hdone, herr, hcode, hovf, hrsv13, hlevel, hcount, hla, hrsv28⟩ :=
    statusWord_fields s
  refine ⟨rfl, rfl, fun _ => rfl, getLsbD_of_field hbusy, getLsbD_of_field hkey, ?mode, ?ready, ?avail,
    getLsbD_of_field hdone, ?err, hcode, getLsbD_of_field hovf, hrsv13, ?level, ?count, getLsbD_of_field hla, hrsv28⟩
  case mode => rw [hmode]; cases s.frMode <;> rfl
  case ready => rw [getLsbD_of_field hready]; exact decide_eq_true_iff
  case avail => rw [getLsbD_of_field havail]; exact decide_eq_true_iff
  case err => rw [getLsbD_of_field herr]; exact bne_iff_ne
  case level => rw [hlevel, BitVec.toNat_ofNat]; omega
  case count => rw [hcount, BitVec.toNat_ofNat]; omega

/-- `CONFIG` as a number: the depth's low byte, and bit 8 for the strip limit 8 (10_state.md R33). -/
theorem configWord_eq (c : Config) :
    configWord c = BitVec.ofNat 32 (c.outDepth % 256 + if c.padStripMax = 8 then 256 else 0) := by
  apply BitVec.eq_of_toNat_eq
  rw [configWord, BitVec.toNat_setWidth, BitVec.toNat_append, ← Nat.shiftLeft_add_eq_or_of_lt (BitVec.isLt _),
    BitVec.toNat_ofNat, BitVec.toNat_ofNat]
  by_cases h : c.padStripMax = 8
  · rw [if_pos h, beq_iff_eq.2 h]
    exact congrArg (· % 2 ^ 32) (Nat.add_comm 256 _)
  · rw [if_neg h, beq_eq_false_iff_ne.2 h]
    exact congrArg (· % 2 ^ 32) (Nat.zero_add _)

/-- A 32-bit read of a register other than `FR_OUT`, outside reset, answers its value and changes nothing of the core. -/
theorem busRead_reg (reg : Reg) (s : State) (hr : s.inReset = false) (hreg : reg ≠ .frOut) :
    busRead (s.cfg.base + reg.offset) .w32 s =
      .next { s with replies := s.replies ++ [⟨s.cfg.base + reg.offset, (readReg reg s).1⟩] } := by
  rw [busRead, access_reg reg s _ hr]
  cases reg with
  | frOut => exact absurd rfl hreg
  | _ => rfl

/-- Settles O38, register by register. -/
theorem readValuesOfTheWindow : Obligations.ReadValuesOfTheWindow := by
  intro s hr
  have hread (reg : Reg) (hreg : reg ≠ .frOut) := busRead_reg reg s hr hreg
  refine ⟨hread .cmd (by decide), hread .status (by decide), hread .keyHi (by decide), hread .keyLo (by decide),
    hread .dinHi (by decide), hread .dinLo (by decide), hread .doutHi (by decide), hread .doutLo (by decide),
    hread .frByteCnt (by decide), hread .id (by decide), ?config, hread .rsv30 (by decide), hread .rsv34 (by decide),
    hread .rsv38 (by decide), hread .rsv3C (by decide)⟩
  case config => rw [← configWord_eq]; exact hread .config (by decide)

/-- Settles O43: the reset state's registers as `State.reset` lists them, and `STATUS` as the view of them. -/
theorem resetValues : Obligations.ResetValues :=
  ⟨rfl, rfl, rfl, rfl, rfl, rfl, rfl, rfl, rfl, rfl, rfl, rfl, rfl, rfl,
    statusWord_reset Config.default (by decide), rfl, rfl⟩

end Sys2Proof.Machine
end

section
/-! SUPPORT. The rules of access to the window: which accesses are refused, which registers a write changes, and which
reads have a side effect (20_memory.md R61, R62, R67; 70_reset_and_hazards.md R250). -/

namespace Sys2Proof.Machine

/-- The registers a write of which has an effect (20_memory.md R62). -/
def writableRegs : List Reg := [.cmd, .keyHi, .keyLo, .dinHi, .dinLo]

/-- A write of any register but `CMD`, `KEY` and `DIN` is ignored. -/
theorem writeReg_of_not_writable (reg : Reg) (v : Word) (s : State) (h : reg ∉ writableRegs) :
    writeReg reg v s = .next s := by
  cases reg with
  | cmd | keyHi | keyLo | dinHi | dinLo => exact absurd (by decide) h
  | _ => rfl

/-- A 32-bit write at a register's address, outside reset, is a write of that register. -/
theorem busWrite_reg (reg : Reg) (data : BitVec 64) (s : State) (hr : s.inReset = false) :
    busWrite (s.cfg.base + reg.offset) .w32 data s = writeReg reg (data.setWidth 32) s := by
  rw [busWrite, access_reg reg s _ hr]

/-- Only a read of `FR_OUT` has a side effect. -/
theorem readReg_state_of_ne_frOut (reg : Reg) (s : State) (h : reg ≠ .frOut) : (readReg reg s).2 = s := by
  cases reg with
  | frOut => exact absurd rfl h
  | _ => rfl

@[simp] theorem inWindow_base_add (c : Config) (off : Nat) (h : off < 64) :
    c.inWindow (c.base + off) = true := by
  simp [Config.inWindow, h]

/-- Any access during reset is refused (70_reset_and_hazards.md R250). -/
theorem access_of_reset (addr : Nat) (width : Width) (s : State) (reach : Reg → Result) (hr : s.inReset = true) :
    access addr width s reach = .refused .accessDuringReset := by
  rw [access, if_pos hr]

/-- Outside reset, an access inside the window is judged by its width, then by its alignment (20_memory.md R61). -/
theorem access_in_window (off : Nat) (width : Width) (s : State) (reach : Reg → Result) (hr : s.inReset = false)
    (hoff : off < 64) :
    access (s.cfg.base + off) width s reach =
      if width ≠ .w32 then .refused .accessWidth
      else if off % 4 ≠ 0 then .refused .accessMisaligned
      else reach (regAt off) := by
  simp [access, hr, hoff]

/-- Settles O40: each offset is its register's, and the eleven others are those of registers a write of which is
ignored. -/
theorem writeEffectsOfTheWindow : Obligations.WriteEffectsOfTheWindow := by
  intro s data hr
  have hwrite (reg : Reg) := busWrite_reg reg data s hr
  refine ⟨hwrite .cmd, hwrite .keyHi, hwrite .keyLo, hwrite .dinHi, hwrite .dinLo, fun off hmem => ?_⟩
  have hignored : ∀ off ∈ [0x04, 0x18, 0x1C, 0x20, 0x24, 0x28, 0x2C, 0x30, 0x34, 0x38, 0x3C],
      (regAt off).offset = off ∧ regAt off ∉ writableRegs := by decide
  obtain ⟨hoff, hreg⟩ := hignored off hmem
  have h := hwrite (regAt off)
  rw [hoff, writeReg_of_not_writable _ _ _ hreg] at h
  exact h

/-- Settles O41: reads and writes pass the same checks, in the order reset, width, alignment. -/
theorem unadmittedAccessesAreRefused : Obligations.UnadmittedAccessesAreRefused := by
  intro s off width data hoff
  refine ⟨fun hr => ?reset, fun hr hw => ?width, fun hr hw hal => ?alignment⟩
  case reset => exact ⟨access_of_reset _ _ _ _ hr, access_of_reset _ _ _ _ hr⟩
  all_goals
    rw [busRead, busWrite, access_in_window off width s _ hr hoff, access_in_window off width s _ hr hoff]
  case width => rw [if_pos hw, if_pos hw]; exact ⟨rfl, rfl⟩
  case alignment => simp [hw, hal]

/-- Settles O42: a read other than of `FR_OUT` leaves the state alone, an empty FIFO answers a read of `FR_OUT` with
nothing removed, and the writes with an effect are those of the writable registers. -/
theorem onlyTheNamedAccessesHaveSideEffects : Obligations.OnlyTheNamedAccessesHaveSideEffects := by
  refine ⟨fun s b rest h => ?pop, fun reg s h => ?changed, fun reg s h => ?twice, fun reg v s h => ?written⟩
  case pop => exact congrArg Prod.snd (popOut_of_cons s b rest h)
  case changed =>
    have hreg : reg = .frOut := Decidable.byContradiction fun hne => h (readReg_state_of_ne_frOut reg s hne)
    subst hreg
    exact ⟨rfl, fun hempty => h (congrArg Prod.snd (popOut_of_nil s hempty))⟩
  case twice => rw [readReg_state_of_ne_frOut reg s h]
  case written => exact Decidable.byContradiction fun hmem => h (writeReg_of_not_writable reg v s hmem)

end Sys2Proof.Machine
end

section
/-! SUPPORT. The decoder is the inverse of the encoder: a word is read as a command exactly when its three fields are
that command's. What the decoder rejects, and how many words it does not, follow (30_encoding.md R82 to R84). -/

namespace Sys2Proof

/-- Encoding, then decoding, gives the command back with its operand. -/
@[simp] theorem decode_encode (i : Instr) : decode (encode i) = .ok i := by
  cases i <;> simp [decode, fieldsOf_encode, encodeFields, decodePlain]

/-- An opcode read as a plain command is that command's, and its other fields are 0. -/
theorem encodeFields_of_decodePlain (op : Byte) (i : Instr) (h : decodePlain op = .ok i) :
    encodeFields i = ⟨op, 0, 0⟩ := by
  unfold decodePlain at h
  split_ifs at h
  all_goals
    cases h
    subst op
    rfl

/-- A line of `Decode` that accepts a word has looked at all three of its fields. -/
theorem fieldsOf_of_decode (w : Word) (i : Instr) (h : decode w = .ok i) : fieldsOf w = encodeFields i := by
  obtain ⟨⟨op, arg, rsv⟩, hc⟩ : ∃ c, fieldsOf w = c := ⟨_, rfl⟩
  simp only [decode, hc] at h
  split_ifs at h with hrsv hop harg
  · cases h
    rw [hc, hop, not_not.1 hrsv, encodeFields]
  · rw [hc, encodeFields_of_decodePlain op i h, not_not.1 harg, not_not.1 hrsv]

theorem decode_eq_ok_iff (w : Word) (i : Instr) : decode w = .ok i ↔ encode i = w := by
  constructor
  · intro h
    rw [encode, ← fieldsOf_of_decode w i h, wordOf_fieldsOf]
  · rintro rfl
    exact decode_encode i

theorem encode_injective : Function.Injective encode := fun i j h => by
  have hji : decode (encode j) = .ok i := h ▸ decode_encode i
  exact Except.ok.inj (hji.symm.trans (decode_encode j))

theorem encodeFields_wf (i : Instr) : (encodeFields i).wf = true := by cases i <;> rfl

/-- What the fields of a legal word are (30_encoding.md R80, R83). -/
theorem CmdWord.wf_iff (c : CmdWord) :
    c.wf = true ↔
      c.rsv = 0 ∧ (c.op = pushOpcode ∨ c.arg = 0) ∧ (c.op = pushOpcode ∨ c.op ∈ plainOpcodes) := by
  simp [CmdWord.wf, CmdWord.rsvZero, CmdWord.argAllowed, CmdWord.opDefined, and_assoc]

/-- A word whose fields are not legal is illegal. -/
theorem decode_rejects (w : Word) (h : (fieldsOf w).wf ≠ true) : ∃ e, decode w = .error e := by
  cases hd : decode w with
  | error e => exact ⟨e, rfl⟩
  | ok i => exact absurd (fieldsOf_of_decode w i hd ▸ encodeFields_wf i) h

theorem decode_wordOf_rejects (c : CmdWord) (h : c.wf ≠ true) : ∃ e, decode (wordOf c) = .error e :=
  decode_rejects _ ((fieldsOf_wordOf c).symm ▸ h)

/-- Settles O1: a decoded word is an encoded command. -/
theorem decodeEncodeAgree : Obligations.DecodeEncodeAgree :=
  ⟨decode_encode, fun w i => (decode_eq_ok_iff w i).1⟩

/-! The legal words, listed. -/

/-- The nine commands without an operand. -/
def plainInstrs : List Instr :=
  [.nop, .keyset, .encb, .decb, .clrerr, .frOpenEnc, .frOpenDec, .frFinal, .frAbort]

/-- The 256 commands `FR_PUSH b`. -/
def pushInstrs : List Instr := (List.finRange 256).map fun b => .frPush (.ofFin b)

theorem mem_pushInstrs (b : Byte) : .frPush b ∈ pushInstrs :=
  List.mem_map.2 ⟨b.toFin, List.mem_finRange _, rfl⟩

theorem mem_plain_or_push (i : Instr) : i ∈ plainInstrs ++ pushInstrs := by
  cases i with
  | frPush b => exact List.mem_append_right _ (mem_pushInstrs b)
  | _ => exact List.mem_append_left _ (by decide)

theorem pushInstrs_nodup : pushInstrs.Nodup := by
  refine (List.nodup_finRange 256).map fun a b h => ?_
  exact BitVec.ofFin.inj (Instr.frPush.inj h)

theorem plainInstrs_disjoint_pushInstrs : plainInstrs.Disjoint pushInstrs := by
  intro i hplain hpush
  obtain ⟨b, -, rfl⟩ := List.mem_map.1 hpush
  simp [plainInstrs] at hplain

/-- The 265 legal words. -/
def legalWords : List Word := (plainInstrs ++ pushInstrs).map encode

theorem legalWords_nodup : legalWords.Nodup :=
  List.Nodup.map encode_injective
    (List.Nodup.append (by decide) pushInstrs_nodup plainInstrs_disjoint_pushInstrs)

theorem legalWords_length : legalWords.length = 265 := by simp [legalWords, plainInstrs, pushInstrs]

theorem mem_legalWords_iff (w : Word) : w ∈ legalWords ↔ ∃ i, decode w = .ok i := by
  simp only [legalWords, List.mem_map, decode_eq_ok_iff, mem_plain_or_push, true_and]

/-- Settles O2: the lines that reject are those of legal fields, and the legal words are the encoded commands. -/
theorem decoderLinesAndLegalWordCount : Obligations.DecoderLinesAndLegalWordCount := by
  refine ⟨fun w hrsv => decode_rejects w fun hwf => ?reserved, fun b => decode_encode (.frPush b),
    fun op arg hop harg => decode_wordOf_rejects ⟨op, arg, 0⟩ fun hwf => ?argument,
    ⟨by decide, fun op hop hplain => decode_wordOf_rejects ⟨op, 0, 0⟩ fun hwf => ?opcode⟩,
    legalWords, legalWords_nodup, legalWords_length, mem_legalWords_iff⟩
  all_goals obtain ⟨hrsv0, harg0, hmap⟩ := (CmdWord.wf_iff _).1 hwf
  case reserved => exact hrsv hrsv0
  case argument => exact harg0.elim hop harg
  case opcode => exact (List.forall_mem_map (f := Prod.fst) (P := (· ≠ op))).2 hplain op (hmap.resolve_left hop) rfl

theorem opcode_range :
    ∀ op ∈ pushOpcode :: plainOpcodes, op.toNat < 0x05 ∨ (0x10 ≤ op.toNat ∧ op.toNat < 0x15) := by decide

end Sys2Proof

namespace Sys2Proof.Machine

/-- A word that is no command records `ERR_ILLEGAL`, or `ERR_BUSY` while a job is pending. -/
theorem issueCommand_of_illegal (w : Word) (s : State) (e : Illegal) (h : decode w = .error e) :
    issueCommand w s = .next (raiseError (if s.busy then .busy else .illegal) s) := by
  cases hb : s.busy with
  | true => rw [issueCommand_of_busy w s hb, if_pos rfl]
  | false => simp [issueCommand, hb, h]

/-- Settles O4: recording an error is all that an illegal word does, and no command's opcode lies in either gap. -/
theorem illegalWordOnlyRecords : Obligations.IllegalWordOnlyRecords := by
  refine ⟨issueCommand_of_illegal, fun op arg rsv hgap => ?_, by decide +kernel⟩
  refine decode_wordOf_rejects ⟨op, arg, rsv⟩ fun hwf => ?_
  obtain ⟨-, -, hmap⟩ := (CmdWord.wf_iff _).1 hwf
  have hrange := opcode_range op (List.mem_cons.2 hmap)
  omega

/-- Settles O3: the ten words are the encoded commands. -/
theorem writtenWordsDecode : Obligations.WrittenWordsDecode :=
  ⟨decode_encode .nop, decode_encode .keyset, decode_encode .encb, decode_encode .decb, decode_encode .clrerr,
    decode_encode .frOpenEnc, decode_encode .frOpenDec, decode_encode (.frPush 0x41), decode_encode .frFinal,
    decode_encode .frAbort⟩

end Sys2Proof.Machine
end

section
/-! SUPPORT. Rules for host programs under every order of turns: what is known before some of the host's operations are
issued, and after. The facts between two operations must survive the moves of the engine, which may come at any time
(00_scope.md R13; 30_encoding.md R86, R87; log 4). -/

namespace Sys2Proof.Machine

theorem microStep_of_idle (s : State) (h : s.job = .none) : microStep s = s := by simp only [microStep, h]

theorem writeReg_keeps (reg : Reg) (v : Word) (s t : State) (h : writeReg reg v s = .next t) :
    t.cfg = s.cfg ∧ t.inReset = s.inReset ∧ t.turns = s.turns := by
  rcases writeReg_cases reg v s t h with ⟨key, din, rfl⟩ | ⟨code, -, rfl⟩ | ⟨i, -, -, -, -, rfl⟩
  · exact ⟨rfl, rfl, rfl⟩
  · exact ⟨rfl, rfl, rfl⟩
  · rw [effectOf_frame]
    exact ⟨rfl, rfl, rfl⟩

/-- A turn of the host touches neither the parameters nor the reset input nor the order of turns. -/
theorem hostTurn_keeps (s t : State) (h : hostTurn s = .next t) :
    t.cfg = s.cfg ∧ t.inReset = s.inReset ∧ t.turns = s.turns := by
  rcases hostTurn_cases s t h with ⟨-, rfl⟩ | ⟨addr, width, ops, -, h⟩ | ⟨addr, width, data, ops, -, h⟩ |
    ⟨addr, mask, want, ops, -, h⟩
  · exact ⟨rfl, rfl, rfl⟩
  · obtain ⟨reg, -, -, h⟩ := access_next _ _ _ _ _ h
    obtain ⟨q, hq, -⟩ := readReg_state reg { s with hostProg := ops }
    rw [hq] at h
    cases h
    exact ⟨rfl, rfl, rfl⟩
  · obtain ⟨reg, -, -, h⟩ := access_next _ _ _ _ _ h
    exact writeReg_keeps reg _ { s with hostProg := ops } t h
  · obtain ⟨reg, -, -, h⟩ := access_next _ _ _ _ _ h
    obtain ⟨q, hq, -⟩ := readReg_state reg { s with hostProg := ops }
    simp only [hq] at h
    split at h <;> cases h <;> exact ⟨rfl, rfl, rfl⟩

theorem issueCommand_of_ok (w : Word) (i : Instr) (s : State) (hb : s.busy = false) (h : decode w = .ok i) :
    issueCommand w s = exec i s := by simp [issueCommand, hb, h]

/-! Runs that nothing disturbs. -/

/-- The parameters are `c`, and reset is not asserted and stays so. -/
def Quiet (c : Config) (s : State) : Prop :=
  s.cfg = c ∧ s.inReset = false ∧ ∀ turn ∈ s.turns, turn.isReset = false

theorem quiet_of_undisturbed (s : State) (h : s.undisturbed = true) : Quiet s.cfg s := by
  simp only [State.undisturbed, Bool.and_eq_true, Bool.not_eq_true', List.all_eq_true] at h
  obtain ⟨⟨hr, hturns⟩, -⟩ := h
  exact ⟨rfl, hr, hturns⟩

section

variable {c : Config} {s t : State}

theorem Quiet.running (h : Quiet c s) : s.inReset = false := h.2.1

theorem Quiet.next_turn (h : Quiet c s) {turn : Turn} {ts : List Turn} (hts : s.turns = turn :: ts) :
    turn.isReset = false ∧ Quiet c { s with turns := ts } := by
  obtain ⟨hcfg, hr, hturns⟩ := h
  rw [hts] at hturns
  exact ⟨hturns turn List.mem_cons_self, hcfg, hr, fun u hu => hturns u (List.mem_cons_of_mem _ hu)⟩

theorem Quiet.hostTurn (h : Quiet c s) (ht : hostTurn s = .next t) : Quiet c t := by
  obtain ⟨hcfg, hr, hturns⟩ := hostTurn_keeps s t ht
  rwa [Quiet, hcfg, hr, hturns]

theorem Quiet.engineStep (h : Quiet c s) : Quiet c (engineStep s) := by rw [engineStep_frame s]; exact h

theorem Quiet.microStep (h : Quiet c s) : Quiet c (microStep s) := by
  obtain ⟨_, _, _, _, _, _, _, hs⟩ := microStep_frame s
  rw [hs]
  exact h

end

/-- Some run from `s` leads to a quiet state where `Q` holds and `rest` is what the host has still to issue. -/
def Reaches (c : Config) (s : State) (rest : List HostOp) (Q : State → Prop) : Prop :=
  ∃ n t, Sys2Proof.core.run n s = .next t ∧ Quiet c t ∧ t.hostProg = rest ∧ Q t

section

variable {c : Config} {s t : State} {ops rest : List HostOp} {P Q : State → Prop}

theorem Reaches.of_step_to (h : step s = .next t) (ht : Quiet c t) (hrest : t.hostProg = rest) (hQ : Q t) :
    Reaches c s rest Q := ⟨1, t, run_succ 0 s t h, ht, hrest, hQ⟩

theorem Reaches.of_step (h : step s = .next t) (ht : Reaches c t rest Q) : Reaches c s rest Q := by
  obtain ⟨n, u, hrun, hu⟩ := ht
  exact ⟨n + 1, u, (run_succ n s t h).trans hrun, hu⟩

theorem Reaches.trans (h : Reaches c s ops P)
    (hnext : ∀ u, Quiet c u → u.hostProg = ops → P u → Reaches c u rest Q) : Reaches c s rest Q := by
  obtain ⟨n, u, hrun, hu, hops, hP⟩ := h
  obtain ⟨n', t, hrun', ht⟩ := hnext u hu hops hP
  exact ⟨n + n', t, (run_add n n' s u hrun).trans hrun', ht⟩

end

/-- From every quiet state with `P` in which the host's next operations are `ops`, whatever the turns, a run leads to the
end of `ops`, and `Q` holds there. -/
def HostTriple (c : Config) (P : State → Prop) (ops : List HostOp) (Q : State → Prop) : Prop :=
  ∀ s rest, Quiet c s → P s → s.hostProg = ops ++ rest → Reaches c s rest Q

/-- No move of the engine falsifies `P`, and `P` says nothing of the turns to come. -/
structure Stable (P : State → Prop) : Prop where
  turns : ∀ s ts, P s → P { s with turns := ts }
  engine : ∀ s, P s → P (engineStep s)
  micro : ∀ s, P s → P (microStep s)

/-- Without a job the engine has no move with an effect. -/
theorem Stable.of_idle {P : State → Prop} (hidle : ∀ s, P s → s.job = .none)
    (hturns : ∀ s ts, P s → P { s with turns := ts }) : Stable P where
  turns := hturns
  engine := fun s h => by rwa [engineStep_of_idle s (hidle s h)]
  micro := fun s h => by rwa [microStep_of_idle s (hidle s h)]

/-- A turn of the host issues `op`: either that is done and `Q` holds, or `op` is a polling loop and a pending job keeps
it waiting. -/
def Issues (c : Config) (P : State → Prop) (op : HostOp) (Q : State → Prop) : Prop :=
  ∀ s rest, Quiet c s → P s → s.hostProg = op :: rest →
    ∃ t, hostTurn s = .next t ∧
      (t.hostProg = rest ∧ Q t ∨ s.busy = true ∧ t.hostProg = op :: rest ∧ P t)

section

variable {c : Config} {P Q R : State → Prop} {op : HostOp} {ops ops' : List HostOp}

/-- With no turn listed and no job pending the host issues its operation at once (log 4). -/
theorem Issues.reaches_of_idle (hissue : Issues c P op Q) (s : State) (rest : List HostOp) (hs : Quiet c s) (hP : P s)
    (hops : s.hostProg = op :: rest) (hts : s.turns = []) (hb : s.busy = false) : Reaches c s rest Q := by
  obtain ⟨t, ht, ⟨hrest, hQ⟩ | ⟨hbusy, -⟩⟩ := hissue s rest hs hP hops
  · have hstep : step s = .next t := by simp [step_of_no_turn s hts, defaultTurn, hs.running, hb, ht]
    exact .of_step_to hstep (hs.hostTurn ht) hrest hQ
  · exact absurd (hb.symm.trans hbusy) Bool.false_ne_true

/-- Under every order of turns the host gets to issue its operation: a polling loop that finds a job pending has used up
a turn, and once the list is used up the engine ends the job first. -/
theorem Issues.triple (hP : Stable P) (hissue : Issues c P op Q) : HostTriple c P [op] Q := by
  intro s rest hs hPs hops
  generalize hts : s.turns = ts
  induction ts generalizing s with
  | nil =>
    cases hb : s.busy with
    | false => exact hissue.reaches_of_idle s rest hs hPs hops hts hb
    | true =>
      have hstep : step s = .next (engineStep s) := by simp [step_of_no_turn s hts, defaultTurn, hs.running, hb]
      refine .of_step hstep (hissue.reaches_of_idle _ rest hs.engineStep (hP.engine s hPs) ?_ ?_ (engineStep_busy s))
      · rwa [engineStep_frame s]
      · rwa [engineStep_frame s]
  | cons turn ts ih =>
    obtain ⟨hturn, hs'⟩ := hs.next_turn hts
    have hP' := hP.turns s ts hPs
    have hstep := step_of_turn s turn ts hts
    cases turn with
    | host =>
      obtain ⟨t, ht, ⟨hrest, hQ⟩ | ⟨-, hretry, hPt⟩⟩ := hissue _ rest hs' hP' hops
      · exact .of_step_to (hstep.trans ht) (hs'.hostTurn ht) hrest hQ
      · obtain ⟨-, -, hturns⟩ := hostTurn_keeps _ t ht
        exact .of_step (hstep.trans ht) (ih t (hs'.hostTurn ht) hPt hretry hturns)
    | engine =>
      rw [takeTurn, engineTurn_of_running { s with turns := ts } hs'.running] at hstep
      refine .of_step hstep (ih _ hs'.engineStep (hP.engine _ hP') ?_ ?_)
      · rwa [engineStep_frame]
      · rw [engineStep_frame]
    | micro =>
      rw [takeTurn, microTurn_of_running { s with turns := ts } hs'.running] at hstep
      obtain ⟨_, _, _, _, _, _, _, hm⟩ := microStep_frame { s with turns := ts }
      refine .of_step hstep (ih _ hs'.microStep (hP.micro _ hP') ?_ ?_)
      · rwa [hm]
      · rw [hm]
    | reset level => cases hturn

/-- Host programs compose. -/
theorem HostTriple.seq (h : HostTriple c P ops Q) (h' : HostTriple c Q ops' R) : HostTriple c P (ops ++ ops') R :=
  fun s rest hs hP hops =>
    (h s (ops' ++ rest) hs hP (hops.trans (List.append_assoc ..))).trans fun u hu hops' hQ => h' u rest hu hQ hops'

/-! What the host's turn does with each kind of operation. -/

theorem hostTurn_of_wrReg (reg : Reg) (v : Word) (s : State) (rest : List HostOp) (hs : Quiet c s)
    (hops : s.hostProg = wrReg c reg v :: rest) :
    hostTurn s = writeReg reg v { s with hostProg := rest } := by
  obtain ⟨rfl, hr, -⟩ := hs
  have hwrite := busWrite_reg reg (v.setWidth 64) { s with hostProg := rest } hr
  rw [BitVec.setWidth_setWidth_of_le v (by decide), BitVec.setWidth_eq] at hwrite
  simp only [hostTurn, hops, wrReg]
  exact hwrite

theorem hostTurn_of_rdReg (reg : Reg) (s : State) (rest : List HostOp) (hs : Quiet c s) (hreg : reg ≠ .frOut)
    (hops : s.hostProg = rdReg c reg :: rest) :
    hostTurn s = .next { s with
      hostProg := rest, replies := s.replies ++ [⟨c.base + reg.offset, (readReg reg s).1⟩] } := by
  obtain ⟨rfl, hr, -⟩ := hs
  have hvalue : (readReg reg { s with hostProg := rest }).1 = (readReg reg s).1 := by
    cases reg with
    | frOut => exact absurd rfl hreg
    | _ => rfl
  have hread := busRead_reg reg { s with hostProg := rest } hr hreg
  rw [hvalue] at hread
  simp only [hostTurn, hops, rdReg]
  exact hread

theorem statusWord_and_busy (s : State) : s.statusWord &&& 0x01 = 0 ↔ s.busy = false := by
  have hbusy := getLsbD_of_field (statusWord_fields s).1
  rw [show (0x01 : Word) = 1#32 from rfl, BitVec.and_one_eq_setWidth_ofBool_getLsbD, hbusy]
  cases s.busy <;> decide

/-- `WAIT` reads `STATUS`, and is over exactly when no job is pending (30_encoding.md R87). -/
theorem hostTurn_of_waitOp (s : State) (rest : List HostOp) (hs : Quiet c s) (hops : s.hostProg = waitOp c :: rest) :
    ∃ replies, hostTurn s = .next { s with
      hostProg := if s.busy then waitOp c :: rest else rest, replies := replies } := by
  obtain ⟨rfl, hr, -⟩ := hs
  refine ⟨s.replies ++ [⟨s.cfg.base + Reg.status.offset, s.statusWord⟩], ?_⟩
  have hpoll : pollRead (s.cfg.base + Reg.status.offset) 0x01 0 { s with hostProg := rest } = _ :=
    access_reg .status { s with hostProg := rest } _ hr
  have hstatus : (readReg .status { s with hostProg := rest }).1 = s.statusWord := rfl
  simp only [hostTurn, hops, waitOp, hpoll, hstatus, statusWord_and_busy]
  cases s.busy <;> rfl

/-! One rule for each kind of operation. -/

theorem HostTriple.write (reg : Reg) (v : Word) (hP : Stable P)
    (hwrite : ∀ s ops, P s →
      ∃ t, writeReg reg v { s with hostProg := ops } = .next t ∧ t.hostProg = ops ∧ Q t) :
    HostTriple c P [wrReg c reg v] Q :=
  Issues.triple hP fun s rest hs hPs hops => by
    obtain ⟨t, ht, hdone⟩ := hwrite s rest hPs
    exact ⟨t, (hostTurn_of_wrReg reg v s rest hs hops).trans ht, .inl hdone⟩

theorem HostTriple.read (reg : Reg) (hreg : reg ≠ .frOut) (hP : Stable P)
    (hread : ∀ s ops, P s → Q { s with
      hostProg := ops, replies := s.replies ++ [⟨c.base + reg.offset, (readReg reg s).1⟩] }) :
    HostTriple c P [rdReg c reg] Q :=
  Issues.triple hP fun s rest hs hPs hops =>
    ⟨_, hostTurn_of_rdReg reg s rest hs hreg hops, .inl ⟨rfl, hread s rest hPs⟩⟩

theorem HostTriple.command (i : Instr) (hP : Stable P) (hidle : ∀ s, P s → s.busy = false)
    (hchecks : ∀ s, P s → firstError (checksOf i s) = none)
    (heffect : ∀ s ops, P s → Q (effectOf i { s with hostProg := ops })) :
    HostTriple c P [cmdOp c i] Q :=
  HostTriple.write .cmd (encode i) hP fun s ops hPs => by
    refine ⟨effectOf i { s with hostProg := ops }, ?_, by rw [effectOf_frame], heffect s ops hPs⟩
    have hb : State.busy { s with hostProg := ops } = false := hidle s hPs
    rw [writeReg, issueCommand_of_ok _ i _ hb (decode_encode i)]
    exact exec_of_ok i _ hb (checksOf_hostProg i s ops ▸ hchecks s hPs)

/-! Waiting for a job. -/

/-- `P` says nothing of the datapath's working registers and nothing of the host's side. -/
def RegistersOnly (P : State → Prop) : Prop :=
  ∀ s c d l r rc started ksNext turns ops replies, P s →
    P { s with
      c := c, d := d, l := l, r := r, rc := rc, started := started, ksNext := ksNext
      turns := turns, hostProg := ops, replies := replies }

/-- `P` holds while a job is pending, and the job's completion makes `Q` true. -/
structure JobPhase (P Q : State → Prop) : Prop where
  pending : ∀ s, P s → s.busy = true
  complete : ∀ s, P s → Q (engineStep s)
  ended : ∀ s, Q s → s.job = .none
  registers : RegistersOnly P
  registers_ended : RegistersOnly Q

/-- The job may have ended at any time. -/
theorem JobPhase.stable (h : JobPhase P Q) : Stable fun s => P s ∨ Q s where
  turns := fun s ts => Or.imp (h.registers s _ _ _ _ _ _ _ ts _ _) (h.registers_ended s _ _ _ _ _ _ _ ts _ _)
  engine := fun s hs => .inr (hs.elim (h.complete s) fun hQ => by rwa [engineStep_of_idle s (h.ended s hQ)])
  micro := fun s hs => by
    obtain ⟨_, _, _, _, _, _, _, hm⟩ := microStep_frame s
    rw [hm]
    exact hs.imp (h.registers s _ _ _ _ _ _ _ _ _ _) (h.registers_ended s _ _ _ _ _ _ _ _ _ _)

/-- After `WAIT` the job has ended, whenever that was. -/
theorem JobPhase.wait (h : JobPhase P Q) : HostTriple c (fun s => P s ∨ Q s) [waitOp c] Q :=
  Issues.triple h.stable fun s rest hs hPs hops => by
    obtain ⟨replies, ht⟩ := hostTurn_of_waitOp s rest hs hops
    refine ⟨_, ht, ?_⟩
    rcases hPs with hP | hQ
    · have hb := h.pending s hP
      exact .inr ⟨hb, if_pos hb, .inl (h.registers s _ _ _ _ _ _ _ _ _ _ hP)⟩
    · have hb := (busy_eq_false_iff s).2 (h.ended s hQ)
      exact .inl ⟨by simp [hb], h.registers_ended s _ _ _ _ _ _ _ _ _ _ hQ⟩

end

end Sys2Proof.Machine
end

section
/-! SUPPORT. The host programs `SETKEY`, `ENC64` and `DEC64` (30_encoding.md R87), operation by operation: what the host
may rely on after each, under every order of turns. -/

namespace Sys2Proof.Machine

theorem hiWord_append_loWord (b : Block) : hiWord b ++ loWord b = b := BitVec.extractLsb'_append_extractLsb'

@[simp] theorem hiWord_setHi (b : Block) (v : Word) : hiWord (setHi b v) = v := BitVec.extractLsb'_append_eq_left

/-- Writing the low half of `x` where its high half stands makes `x`. -/
theorem setLo_loWord (b x : Block) (h : hiWord b = hiWord x) : setLo b (loWord x) = x := by
  rw [setLo, h, hiWord_append_loWord]

/-! Encryption and decryption as one. -/

/-- The command that runs a block in a direction. -/
def Direction.command : Direction → Instr
  | .encrypting => .encb
  | .decrypting => .decb

/-- The job that command leaves. -/
def Direction.job : Direction → Job
  | .encrypting => .encb
  | .decrypting => .decb

/-- The transform that job computes. -/
def Direction.transform : Direction → Subkeys → Block → Block
  | .encrypting => encrypt
  | .decrypting => decrypt

/-- The pseudo-instruction that issues the command and fetches the result. -/
def Direction.pseudo : Direction → Block → Pseudo
  | .encrypting => .enc64
  | .decrypting => .dec64

theorem Direction.expand_pseudo (dir : Direction) (c : Config) (m : Block) :
    (dir.pseudo m).expand c =
      [wrReg c .dinHi (hiWord m), wrReg c .dinLo (loWord m), cmdOp c dir.command, waitOp c, rdReg c .doutHi,
        rdReg c .doutLo] := by cases dir <;> rfl

theorem Direction.checksOf_command (dir : Direction) (s : State) :
    checksOf dir.command s = [(!s.keyValid, .nokey)] := by cases dir <;> rfl

theorem Direction.effectOf_command (dir : Direction) (s : State) :
    effectOf dir.command s = latchJob dir.job s.din s := by cases dir <;> rfl

/-- A block job's completion writes `DOUT` and keeps the session (42_feistel_core.md R153, R154). -/
theorem Direction.engineStep_job (dir : Direction) (s : State) (h : s.job = dir.job) :
    (engineStep s).dout = dir.transform s.ks s.jin ∧ (engineStep s).keyValid = s.keyValid ∧
    (engineStep s).frMode = s.frMode := by
  cases dir with
  | encrypting => rw [engineStep_of_encb s h]; exact ⟨rfl, rfl, rfl⟩
  | decrypting => rw [engineStep_of_decb s h]; exact ⟨rfl, rfl, rfl⟩

/-! The assertions. -/

/-- No stream is open and the error record is as given. -/
def NoStream (code : ErrCode) (ovf : Bool) (s : State) : Prop := s.frMode = .idle ∧ s.errCode = code ∧ s.errOvf = ovf

/-- No job is pending, and `X` holds of the registers. -/
def Settled (code : ErrCode) (ovf : Bool) (X : State → Prop) (s : State) : Prop :=
  s.job = .none ∧ NoStream code ovf s ∧ X s

/-- The job `j` is pending on the operand `x`, and `X` holds of the registers. -/
def Latched (code : ErrCode) (ovf : Bool) (j : Job) (x : Block) (X : State → Prop) (s : State) : Prop :=
  s.job = j ∧ s.jin = x ∧ NoStream code ovf s ∧ X s

/-- The session has the subkeys `ks`. -/
def InSession (ks : Subkeys) (s : State) : Prop := s.keyValid = true ∧ s.ks = ks

/-- The session goes on, and `DOUT` is `y`. -/
def HasResult (y : Block) (s : State) : Prop := s.keyValid = true ∧ s.dout = y

/-- The session goes on, `DOUT` is `y`, and `read` is what the host read last. -/
def HasRead (y : Block) (read : List Reply) (s : State) : Prop :=
  HasResult y s ∧ ∃ replies, s.replies = replies ++ read

section

variable {c : Config} {code : ErrCode} {ovf : Bool}

theorem Settled.stable {X : State → Prop} (hX : ∀ s ts, X s → X { s with turns := ts }) :
    Stable (Settled code ovf X) :=
  .of_idle (fun _ h => h.1) fun s ts ⟨hj, hs, h⟩ => ⟨hj, hs, hX s ts h⟩

theorem NoStream.engineStep {s : State} (h : NoStream code ovf s) (hm : (engineStep s).frMode = s.frMode) :
    NoStream code ovf (engineStep s) := by
  obtain ⟨hmode, hcode, hovf⟩ := h
  refine ⟨hm.trans hmode, ?_, ?_⟩
  · rwa [engineStep_frame s]
  · rwa [engineStep_frame s]

/-- A KEYSET job on `k` ends in a session with the subkeys of `k` (41_key_schedule.md R124). -/
theorem keyset_phase (k : Block) :
    JobPhase (Latched code ovf .keyset k fun _ => True) (Settled code ovf (InSession (keySchedule k))) where
  pending := fun s h => by rw [State.busy, h.1]; rfl
  complete := fun s ⟨hj, hk, hs, _⟩ => by
    subst hk
    have hc := engineStep_of_keyset s hj
    exact ⟨engineStep_job s, hs.engineStep (by rw [hc]; rfl), by rw [hc]; exact ⟨rfl, rfl⟩⟩
  ended := fun _ h => h.1
  registers := fun _ _ _ _ _ _ _ _ _ _ _ h => h
  registers_ended := fun _ _ _ _ _ _ _ _ _ _ _ h => h

theorem loadKey_triple (k : Block) :
    HostTriple c (Settled code ovf fun _ => True) [wrReg c .keyHi (hiWord k), wrReg c .keyLo (loWord k)]
      (Settled code ovf fun s => s.key = k) := by
  have hhi : HostTriple c (Settled code ovf fun _ => True) [wrReg c .keyHi (hiWord k)]
      (Settled code ovf fun s => hiWord s.key = hiWord k) :=
    .write .keyHi _ (Settled.stable fun _ _ h => h) fun s ops ⟨hj, hs, _⟩ =>
      ⟨_, rfl, rfl, hj, hs, hiWord_setHi s.key _⟩
  have hlo : HostTriple c (Settled code ovf fun s => hiWord s.key = hiWord k) [wrReg c .keyLo (loWord k)]
      (Settled code ovf fun s => s.key = k) :=
    .write .keyLo _ (Settled.stable fun _ _ h => h) fun s ops ⟨hj, hs, h⟩ =>
      ⟨_, rfl, rfl, hj, hs, setLo_loWord s.key k h⟩
  exact hhi.seq hlo

/-- `SETKEY k` establishes the session of `k`. -/
theorem setKey_triple (k : Block) :
    HostTriple c (Settled code ovf fun _ => True) ((Pseudo.setKey k).expand c)
      (Settled code ovf (InSession (keySchedule k))) := by
  have hcmd : HostTriple c (Settled code ovf fun s => s.key = k) [cmdOp c .keyset]
      fun s => Latched code ovf .keyset k (fun _ => True) s ∨ Settled code ovf (InSession (keySchedule k)) s :=
    .command .keyset (Settled.stable fun _ _ h => h) (fun s h => (busy_eq_false_iff s).2 h.1)
      (fun s ⟨_, ⟨hmode, _⟩, _⟩ => by simp [checksOf, hmode])
      fun s ops ⟨_, hs, h⟩ => .inl ⟨rfl, h, hs, trivial⟩
  exact (loadKey_triple k).seq (hcmd.seq (keyset_phase k).wait)

/-- A block job on `m` in the session of `ks` leaves the transform of `m` in `DOUT`. -/
theorem block_phase (dir : Direction) (ks : Subkeys) (m : Block) :
    JobPhase (Latched code ovf dir.job m (InSession ks))
      (Settled code ovf (HasResult (dir.transform ks m))) where
  pending := fun s h => by rw [State.busy, h.1]; cases dir <;> rfl
  complete := fun s ⟨hj, hm, hs, hkv, hks⟩ => by
    obtain ⟨hdout, hvalid, hmode⟩ := dir.engineStep_job s hj
    exact ⟨engineStep_job s, hs.engineStep hmode, hvalid.trans hkv, by rw [hdout, hks, hm]⟩
  ended := fun _ h => h.1
  registers := fun _ _ _ _ _ _ _ _ _ _ _ h => h
  registers_ended := fun _ _ _ _ _ _ _ _ _ _ _ h => h

theorem loadDin_triple (ks : Subkeys) (m : Block) :
    HostTriple c (Settled code ovf (InSession ks)) [wrReg c .dinHi (hiWord m), wrReg c .dinLo (loWord m)]
      (Settled code ovf fun s => InSession ks s ∧ s.din = m) := by
  have hhi : HostTriple c (Settled code ovf (InSession ks)) [wrReg c .dinHi (hiWord m)]
      (Settled code ovf fun s => InSession ks s ∧ hiWord s.din = hiWord m) :=
    .write .dinHi _ (Settled.stable fun _ _ h => h) fun s ops ⟨hj, hs, hks⟩ =>
      ⟨_, rfl, rfl, hj, hs, hks, hiWord_setHi s.din _⟩
  have hlo : HostTriple c (Settled code ovf fun s => InSession ks s ∧ hiWord s.din = hiWord m)
      [wrReg c .dinLo (loWord m)] (Settled code ovf fun s => InSession ks s ∧ s.din = m) :=
    .write .dinLo _ (Settled.stable fun _ _ h => h) fun s ops ⟨hj, hs, hks, h⟩ =>
      ⟨_, rfl, rfl, hj, hs, hks, setLo_loWord s.din m h⟩
  exact hhi.seq hlo

/-- What two reads of `DOUT` return when it holds `y`. -/
def doutReplies (c : Config) (y : Block) : List Reply :=
  [⟨c.base + Reg.doutHi.offset, hiWord y⟩, ⟨c.base + Reg.doutLo.offset, loWord y⟩]

theorem readDout_triple (y : Block) :
    HostTriple c (Settled code ovf (HasResult y)) [rdReg c .doutHi, rdReg c .doutLo]
      (Settled code ovf (HasRead y (doutReplies c y))) := by
  have hhi : HostTriple c (Settled code ovf (HasResult y)) [rdReg c .doutHi]
      (Settled code ovf (HasRead y [⟨c.base + Reg.doutHi.offset, hiWord y⟩])) :=
    .read .doutHi (by decide) (Settled.stable fun _ _ h => h) fun s ops ⟨hj, hs, hkv, hy⟩ =>
      ⟨hj, hs, ⟨hkv, hy⟩, s.replies, by rw [← hy]; rfl⟩
  have hlo : HostTriple c (Settled code ovf (HasRead y [⟨c.base + Reg.doutHi.offset, hiWord y⟩]))
      [rdReg c .doutLo] (Settled code ovf (HasRead y (doutReplies c y))) :=
    .read .doutLo (by decide) (Settled.stable fun _ _ h => h) fun s ops ⟨hj, hs, ⟨hkv, hy⟩, replies, hread⟩ =>
      ⟨hj, hs, ⟨hkv, hy⟩, replies, by simp [doutReplies, hread, readReg, hy]⟩
  exact hhi.seq hlo

/-- `ENC64 m` or `DEC64 m` in the session of `ks` leaves the transform of `m` in `DOUT`, and the host has read it. -/
theorem block_triple (dir : Direction) (ks : Subkeys) (m : Block) :
    HostTriple c (Settled code ovf (InSession ks)) ((dir.pseudo m).expand c)
      (Settled code ovf (HasRead (dir.transform ks m) (doutReplies c (dir.transform ks m)))) := by
  have hcmd : HostTriple c (Settled code ovf fun s => InSession ks s ∧ s.din = m) [cmdOp c dir.command]
      fun s => Latched code ovf dir.job m (InSession ks) s ∨ Settled code ovf (HasResult (dir.transform ks m)) s :=
    .command dir.command (Settled.stable fun _ _ h => h) (fun s h => (busy_eq_false_iff s).2 h.1)
      (fun s ⟨_, _, ⟨hkv, _⟩, _⟩ => by simp [dir.checksOf_command, hkv])
      fun s ops ⟨_, hs, hks, h⟩ => by rw [dir.effectOf_command]; exact .inl ⟨rfl, h, hs, hks⟩
  rw [dir.expand_pseudo]
  exact (loadDin_triple ks m).seq (hcmd.seq ((block_phase dir ks m).wait.seq (readDout_triple _)))

end

/-- Settles O54: `SETKEY` establishes the session the block command needs, and the two programs' rules compose. -/
theorem setKeyThenBlockUnderEveryInterleaving : Obligations.SetKeyThenBlockUnderEveryInterleaving := by
  intro s k m encrypting _ hb hmode hops hundisturbed
  obtain ⟨dir, hpseudo, htransform⟩ : ∃ dir : Direction,
      (if encrypting then Pseudo.enc64 m else Pseudo.dec64 m) = dir.pseudo m ∧
      (if encrypting then encrypt (keySchedule k) m else decrypt (keySchedule k) m) =
        dir.transform (keySchedule k) m := by
    cases encrypting with
    | true => exact ⟨.encrypting, rfl, rfl⟩
    | false => exact ⟨.decrypting, rfl, rfl⟩
  rw [hpseudo] at hops
  have hprogram := (setKey_triple (c := s.cfg) (code := s.errCode) (ovf := s.errOvf) k).seq
    (block_triple dir (keySchedule k) m)
  obtain ⟨n, t, hrun, -, hdone, hj, ⟨-, hcode, hovf⟩, ⟨hkv, hy⟩, replies, hread⟩ :=
    hprogram s [] (quiet_of_undisturbed s hundisturbed) ⟨(busy_eq_false_iff s).1 hb, ⟨hmode, rfl, rfl⟩, trivial⟩
      (hops.trans (List.append_nil _).symm)
  refine ⟨n, t, replies, hrun, hdone, (busy_eq_false_iff t).2 hj, hkv, hcode, hovf, hy.trans htransform.symm, ?_⟩
  rw [hy]
  exact hread

end Sys2Proof.Machine
end

section
/-! SUPPORT. The permutation engine by positions: what `permute` puts at each output position, and when one table undoes
another (00_scope.md R9; 40_permutation_engine.md R100, R105). -/

namespace Sys2Proof.Machine

variable {w o : Nat}

/-- The spec's positions are the library's bits counted from the most significant, shifted by one. -/
theorem pos_eq_getMsbD (v : BitVec w) (p : Nat) (hp : 1 ≤ p) (hw : p ≤ w) : pos v p = v.getMsbD (p - 1) := by
  have hlt : p - 1 < w := by omega
  have hidx : w - 1 - (p - 1) = w - p := by omega
  simp [pos, BitVec.getMsbD, hlt, hidx]

/-- Two words that agree at every position are equal. -/
theorem eq_of_pos_eq (x y : BitVec w) (h : ∀ p, 1 ≤ p → p ≤ w → pos x p = pos y p) : x = y := by
  refine BitVec.eq_of_getMsbD_eq fun i hi => ?_
  have hpos := h (i + 1) (by omega) hi
  rwa [pos_eq_getMsbD x _ (by omega) hi, pos_eq_getMsbD y _ (by omega) hi] at hpos

/-- The entry at an output position names the input position that moves there (40_permutation_engine.md R100). -/
theorem pos_permute (t : Table w o) (x : BitVec w) (i p : Nat) (hi : 1 ≤ i) (hp : t.entries[i - 1]? = some p) :
    pos (permute t x) i = pos x p := by
  have hlt : i - 1 < t.entries.length := (List.getElem?_eq_some_iff.1 hp).1
  have hio : i ≤ o := by have := t.length_eq; omega
  rw [pos_eq_getMsbD _ i hi hio, permute, BitVec.getMsbD_cast, BitVec.getMsbD_ofBoolListBE]
  simp [List.getD, hp]

/-- `u` undoes `t`: the entry of `t` at the position `u` names for output position `p` is `p` itself. -/
def Table.Undoes (u : Table o w) (t : Table w o) : Prop :=
  u.entries.map (fun q => t.entries[q - 1]?) = (List.range' 1 w).map some

/-- A position moved by `t` is moved back by a table that undoes `t`. -/
theorem permute_permute_of_undoes (u : Table o w) (t : Table w o) (h : u.Undoes t) (x : BitVec w) :
    permute u (permute t x) = x := by
  refine eq_of_pos_eq _ _ fun p hp hw => ?_
  have hlt : p - 1 < u.entries.length := by have := u.length_eq; omega
  obtain ⟨q, hq⟩ : ∃ q, u.entries[p - 1]? = some q := ⟨_, List.getElem?_eq_getElem hlt⟩
  have hback : t.entries[q - 1]? = some p := by
    have hentry := congrArg (·[p - 1]?) h
    simpa [hq, show p - 1 < w by omega, show 1 + (p - 1) = p by omega] using hentry
  have hq1 : 1 ≤ q := (u.inRange q (List.mem_of_getElem? hq)).1
  calc pos (permute u (permute t x)) p
      = pos (permute t x) q := pos_permute u _ p q hp hq
    _ = pos x p := pos_permute t x q p hq1 hback

theorem tableFP_undoes_tableIP : tableFP.Undoes tableIP := by
  unfold Table.Undoes
  decide

theorem tableIP_undoes_tableFP : tableIP.Undoes tableFP := by
  unfold Table.Undoes
  decide

/-- Settles O7: the statement writes `pos` out, and the entry at `i` is the one `pos_permute` asks for. -/
theorem permuteMovesPositions : Obligations.PermuteMovesPositions := fun _ _ t x i hi _ =>
  pos_permute t x i _ hi (List.getElem?_eq_getElem _)

/-- Settles O8: each of the two tables undoes the other. -/
theorem finalUndoesInitialPermutation : Obligations.FinalUndoesInitialPermutation := fun x =>
  ⟨permute_permute_of_undoes _ _ tableFP_undoes_tableIP x, permute_permute_of_undoes _ _ tableIP_undoes_tableFP x⟩

end Sys2Proof.Machine
end

section
/-! SUPPORT. The key schedule: its rotations as library rotations, what it reads of the key, and its micro-steps
(00_scope.md R10; 41_key_schedule.md R120 to R125). -/

namespace Sys2Proof.Machine

/-! The micro-steps of a pending KEYSET (41_key_schedule.md R125). -/

theorem microStep_of_keyset (s : State) (h : s.job = .keyset) : microStep s = microSchedule s := by
  simp only [microStep, h]

/-- The first micro-step loads the halves PC-1 gives. -/
theorem microSchedule_of_unstarted (s : State) (h : s.started = false) :
    microSchedule s =
      { s with c := (initialHalves s.jin).1, d := (initialHalves s.jin).2, rc := 0, started := true } := by
  rw [microSchedule, if_pos h]

/-- Each further micro-step is the next schedule round. -/
theorem microSchedule_of_round (s : State) (hs : s.started = true) (h : s.rc.val < 16) :
    microSchedule s =
      { s with
        c := (rotateHalves (s.rc.val + 1) (s.c, s.d)).1
        d := (rotateHalves (s.rc.val + 1) (s.c, s.d)).2
        rc := ⟨s.rc.val + 1, by omega⟩
        ksNext := s.ksNext.set s.rc.val (subkeyOf (rotateHalves (s.rc.val + 1) (s.c, s.d))) } := by
  rw [microSchedule, if_neg (by simp [hs]), dif_pos h]

theorem keySchedule_getElem (k : Block) (i : Nat) (h : i < 16) :
    (keySchedule k)[i] = subkeyOf (halvesAfter k (i + 1)) := Vector.getElem_ofFn h

/-- The staged subkeys after `n` rounds on the key `k`: the first `n` are made, the others are those of `old`. -/
def stagedSubkeys (k : Block) (old : Subkeys) (n : Nat) : Subkeys :=
  Vector.ofFn fun i => if i.val < n then (keySchedule k)[i] else old[i]

theorem stagedSubkeys_getElem (k : Block) (old : Subkeys) (n i : Nat) (h : i < 16) :
    (stagedSubkeys k old n)[i] = if i < n then (keySchedule k)[i] else old[i] := Vector.getElem_ofFn h

theorem stagedSubkeys_zero (k : Block) (old : Subkeys) : stagedSubkeys k old 0 = old :=
  Vector.ext fun i hi => by rw [stagedSubkeys_getElem, if_neg (Nat.not_lt_zero i)]

/-- Round `n + 1` makes the subkey at index `n`. -/
theorem stagedSubkeys_succ (k : Block) (old : Subkeys) (n : Nat) (hn : n < 16) :
    stagedSubkeys k old (n + 1) = (stagedSubkeys k old n).set n (subkeyOf (halvesAfter k (n + 1))) := by
  refine Vector.ext fun i hi => ?_
  rw [Vector.getElem_set, stagedSubkeys_getElem, stagedSubkeys_getElem]
  by_cases h : n = i
  · subst h
    rw [if_pos (Nat.lt_succ_self n), if_pos rfl, keySchedule_getElem]
  · simp only [if_neg h, show i < n + 1 ↔ i < n by omega]

/-- The state with `n` schedule rounds of its latched key run. -/
def afterRounds (s : State) (n : Nat) : State :=
  { s with
    c := (halvesAfter s.jin n).1
    d := (halvesAfter s.jin n).2
    rc := Fin.ofNat 17 n
    started := true
    ksNext := stagedSubkeys s.jin s.ksNext n }

theorem afterRounds_rc (s : State) (n : Nat) (hn : n ≤ 16) : (afterRounds s n).rc.val = n :=
  Nat.mod_eq_of_lt (by omega)

theorem microSchedule_eq_afterRounds_zero (s : State) (h : s.started = false) :
    microSchedule s = afterRounds s 0 := by
  rw [microSchedule_of_unstarted s h, afterRounds, stagedSubkeys_zero]
  rfl

theorem microSchedule_afterRounds (s : State) (n : Nat) (hn : n < 16) :
    microSchedule (afterRounds s n) = afterRounds s (n + 1) := by
  have hrc : (afterRounds s n).rc.val = n := afterRounds_rc s n (by omega)
  have hnext : Fin.ofNat 17 (n + 1) = ⟨n + 1, by omega⟩ := Fin.ext (Nat.mod_eq_of_lt (by omega))
  rw [microSchedule_of_round _ rfl (by omega)]
  simp only [hrc]
  simp only [afterRounds, stagedSubkeys_succ _ _ n hn, hnext, halvesAfter]

/-- A pending KEYSET after its loading micro-step and `n` more has run `n` rounds. -/
theorem microStep_iterate_succ (s : State) (n : Nat) (hj : s.job = .keyset) (hs : s.started = false) (hn : n ≤ 16) :
    microStep^[n + 1] s = afterRounds s n := by
  induction n with
  | zero => exact (microStep_of_keyset s hj).trans (microSchedule_eq_afterRounds_zero s hs)
  | succ n ih =>
    rw [Function.iterate_succ_apply', ih (by omega), microStep_of_keyset (afterRounds s n) hj,
      microSchedule_afterRounds s n hn]

/-- Settles O11: the state after each micro-step is known exactly, and the four clauses read it off. -/
theorem scheduleMicroStepsFollowRounds : Obligations.ScheduleMicroStepsFollowRounds := by
  intro s n hj hs hn
  rw [microStep_iterate_succ s n hj hs hn]
  refine ⟨rfl, afterRounds_rc s n hn, fun i hi => ?_, rfl⟩
  exact (stagedSubkeys_getElem s.jin s.ksNext n i i.isLt).trans (if_pos hi)

/-! The rotations add up (41_key_schedule.md R122). -/

theorem rotateLeft_zero {w : Nat} (x : BitVec w) : x.rotateLeft 0 = x := by
  refine BitVec.eq_of_getMsbD_eq fun i hi => ?_
  simp [BitVec.getMsbD_rotateLeft, hi, Nat.mod_eq_of_lt hi]

/-- A rotation by the full width is none. -/
theorem rotateLeft_width {w : Nat} (x : BitVec w) : x.rotateLeft w = x := by
  rw [← BitVec.rotateLeft_mod_eq_rotateLeft, Nat.mod_self, rotateLeft_zero]

theorem rotateLeft_rotateLeft {w : Nat} (x : BitVec w) (a b : Nat) :
    (x.rotateLeft a).rotateLeft b = x.rotateLeft (a + b) := by
  refine BitVec.eq_of_getMsbD_eq fun i hi => ?_
  have hlt : (b + i) % w < w := Nat.mod_lt _ (by omega)
  simp [BitVec.getMsbD_rotateLeft, hi, hlt, Nat.add_assoc]

theorem shiftOf_lt (i : Nat) : shiftOf i < 28 := by
  unfold shiftOf
  split <;> omega

theorem rotl28_eq_rotateLeft (v : KeyHalf) (s : Nat) (h : s < 28) : rotl28 v s = v.rotateLeft s :=
  (BitVec.rotateLeft_eq_rotateLeftAux_of_lt h).symm

theorem rotateHalves_eq_rotateLeft (i : Nat) (h : KeyHalf × KeyHalf) :
    rotateHalves i h = (h.1.rotateLeft (shiftOf i), h.2.rotateLeft (shiftOf i)) := by
  rw [rotateHalves, rotl28_eq_rotateLeft _ _ (shiftOf_lt i), rotl28_eq_rotateLeft _ _ (shiftOf_lt i)]

/-- How far the first `n` rounds rotate in all. -/
def totalShift (n : Nat) : Nat := ∑ i ∈ Finset.range n, shiftOf (i + 1)

theorem totalShift_zero : totalShift 0 = 0 := rfl

theorem totalShift_succ (n : Nat) : totalShift (n + 1) = totalShift n + shiftOf (n + 1) :=
  Finset.sum_range_succ _ n

theorem totalShift_sixteen : totalShift 16 = 28 := by decide

/-- The halves of round `n` are those of PC-1 rotated by all the shifts so far. -/
theorem halvesAfter_eq_rotateLeft (k : Block) (n : Nat) :
    halvesAfter k n =
      ((initialHalves k).1.rotateLeft (totalShift n), (initialHalves k).2.rotateLeft (totalShift n)) := by
  induction n with
  | zero => rw [totalShift_zero, rotateLeft_zero, rotateLeft_zero, halvesAfter]
  | succ n ih =>
    rw [halvesAfter, ih, rotateHalves_eq_rotateLeft, rotateLeft_rotateLeft, rotateLeft_rotateLeft, totalShift_succ]

/-- Settles O9: each round is a rotation of the one before it, and the sixteen shifts make one full turn. -/
theorem rotationsAccumulateAndReturn : Obligations.RotationsAccumulateAndReturn := by
  refine fun k => ⟨fun _ => rfl, ?_⟩
  rw [halvesAfter_eq_rotateLeft, totalShift_sixteen, rotateLeft_width, rotateLeft_width, halvesAfter]

/-! What the schedule reads of the key (41_key_schedule.md R123). -/

/-- A permutation reads only the positions its table names. -/
theorem permute_congr {w o : Nat} (t : Table w o) (x y : BitVec w) (h : ∀ p ∈ t.entries, pos x p = pos y p) :
    permute t x = permute t y := by
  refine eq_of_pos_eq _ _ fun i hi ho => ?_
  have hlt : i - 1 < t.entries.length := by have := t.length_eq; omega
  have hentry : t.entries[i - 1]? = some t.entries[i - 1] := List.getElem?_eq_getElem hlt
  rw [pos_permute t x i _ hi hentry, pos_permute t y i _ hi hentry, h _ (List.getElem_mem hlt)]

/-- The schedule reads the key through PC-1 only. -/
theorem keySchedule_congr (k k' : Block) (h : initialHalves k = initialHalves k') :
    keySchedule k = keySchedule k' := by
  simp only [keySchedule, halvesAfter_eq_rotateLeft, h]

/-- PC-1 names no parity bit. -/
theorem tablePC1_skips_parity : ∀ p ∈ tablePC1.entries, 64 - p < 64 ∧ (64 - p) % 8 ≠ 0 := by decide

theorem initialHalves_congr (k k' : Block) (h : ∀ i < 64, i % 8 ≠ 0 → k.getLsbD i = k'.getLsbD i) :
    initialHalves k = initialHalves k' := by
  have hPC1 : permute tablePC1 k = permute tablePC1 k' := permute_congr tablePC1 k k' fun p hp => by
    obtain ⟨hlt, hparity⟩ := tablePC1_skips_parity p hp
    exact h (64 - p) hlt hparity
  simp only [initialHalves, hPC1]

end Sys2Proof.Machine
end

section
/-! SUPPORT. `KEYSET` from acceptance to completion, and what a completion step does not read (41_key_schedule.md R123 to
R125; 42_feistel_core.md R155). -/

namespace Sys2Proof.Machine

/-! `KEYSET` (41_key_schedule.md R124). -/

theorem checksOf_keyset_pass (s : State) (h : s.frMode = .idle) : firstError (checksOf .keyset s) = none := by
  simp [checksOf, h]

/-- Settles O21: the only check beyond BUSY is that no stream is open, and the effect is the one stated. -/
theorem keysetIsAccepted : Obligations.KeysetIsAccepted := fun s hb hm =>
  exec_of_ok .keyset s hb (checksOf_keyset_pass s hm)

/-- Settles O10: PC-1 drops the parity bits, and acceptance does not look at the key. -/
theorem parityBitsDoNotMatter : Obligations.ParityBitsDoNotMatter :=
  ⟨fun k k' h => keySchedule_congr k k' (initialHalves_congr k k' h),
    fun s k hb hm => keysetIsAccepted { s with key := k } hb hm⟩

/-- Settles O33: the registers the statement leaves free are those `settleSchedule` writes. -/
theorem keysetCompletionStartsTheSession : Obligations.KeysetCompletionStartsTheSession := by
  intro s hj
  rw [engineStep_of_keyset s hj]
  rfl

/-! A completion step does not read the working registers (41_key_schedule.md R125, 42_feistel_core.md R155). -/

theorem microStep_of_block (s : State) (hn : s.job ≠ .none) (hk : s.job ≠ .keyset) :
    ∃ dir, microStep s = microRound dir s := by
  cases hj : s.job with
  | none => exact absurd hj hn
  | keyset => exact absurd hj hk
  | _ => simp only [microStep, hj]; exact ⟨_, rfl⟩

theorem engineStep_ignores_schedule_registers (s : State) (c d : KeyHalf) (rc : Fin 17) (started : Bool)
    (ksNext : Subkeys) (hj : s.job = .keyset) :
    engineStep { s with c := c, d := d, rc := rc, started := started, ksNext := ksNext } = engineStep s := by
  simp only [engineStep, hj]
  rfl

theorem engineStep_ignores_round_registers (s : State) (l r : Half) (rc : Fin 17) (started : Bool)
    (hn : s.job ≠ .none) (hk : s.job ≠ .keyset) :
    engineStep { s with l := l, r := r, rc := rc, started := started } = engineStep s := by
  cases hj : s.job with
  | none => exact absurd hj hn
  | keyset => exact absurd hj hk
  | _ => simp only [engineStep, hj]; rfl

theorem engineStep_microStep (s : State) : engineStep (microStep s) = engineStep s := by
  by_cases hn : s.job = .none
  · rw [microStep_of_idle s hn]
  · by_cases hk : s.job = .keyset
    · obtain ⟨c, d, rc, started, ksNext, h⟩ := microSchedule_frame s
      rw [microStep_of_keyset s hk, h, engineStep_ignores_schedule_registers s c d rc started ksNext hk]
    · obtain ⟨dir, hdir⟩ := microStep_of_block s hn hk
      obtain ⟨l, r, rc, started, h⟩ := microRound_frame dir s
      rw [hdir, h, engineStep_ignores_round_registers s l r rc started hn hk]

/-- Settles O19, by induction on the number of micro-steps. -/
theorem microStepsCollapseIntoCompletion : Obligations.MicroStepsCollapseIntoCompletion := by
  intro s n
  induction n with
  | zero => rfl
  | succ n ih => rw [Function.iterate_succ_apply', engineStep_microStep, ih]

end Sys2Proof.Machine
end

section
/-! SUPPORT. What each command's effect leaves alone, field by field (41_key_schedule.md R124; 42_feistel_core.md R153,
R154; 43_stream_framer.md R171 to R179; 44_control.md R211, R212). -/

namespace Sys2Proof.Machine

section
variable (i : Instr) (s : State)

/-- Only `KEYSET` touches the session (41_key_schedule.md R124). -/
theorem effectOf_keyValid (h : i ≠ .keyset) : (effectOf i s).keyValid = s.keyValid := by
  cases i with
  | keyset => exact absurd rfl h
  | frPush b => rw [effectOf, pushByte_frame b s]
  | frFinal => rw [effectOf, finalStream_frame s]
  | frAbort => rw [effectOf, abortStream_frame s]
  | _ => rfl

theorem effectOf_stream (h : i ∉ [.frOpenEnc, .frOpenDec, .frFinal, .frAbort]) :
    (effectOf i s).frMode = s.frMode ∧ (effectOf i s).frDone = s.frDone ∧ (effectOf i s).laValid = s.laValid := by
  cases i with
  | frOpenEnc | frOpenDec | frFinal | frAbort => simp at h
  | frPush b => rw [effectOf, pushByte_frame b s]; exact ⟨rfl, rfl, rfl⟩
  | _ => exact ⟨rfl, rfl, rfl⟩

theorem effectOf_outq (h : i ∉ [.frFinal, .frAbort]) : (effectOf i s).outq = s.outq := by
  cases i with
  | frFinal | frAbort => simp at h
  | frPush b => rw [effectOf, pushByte_frame b s]
  | _ => rfl

theorem effectOf_bufCount (hp : ∀ b, i ≠ .frPush b) (h : i ∉ [.frOpenEnc, .frOpenDec, .frFinal, .frAbort]) :
    (effectOf i s).bufCount = s.bufCount := by
  cases i with
  | frOpenEnc | frOpenDec | frFinal | frAbort => simp at h
  | frPush b => exact absurd rfl (hp b)
  | _ => rfl

theorem effectOf_buf (hp : ∀ b, i ≠ .frPush b) (h : i ≠ .frFinal) : (effectOf i s).buf = s.buf := by
  cases i with
  | frPush b => exact absurd rfl (hp b)
  | frFinal => exact absurd rfl h
  | frAbort => rw [effectOf, abortStream_frame s]
  | _ => rfl

theorem effectOf_frByteCnt_kept (hp : ∀ b, i ≠ .frPush b) (h : i ∉ [.frOpenEnc, .frOpenDec]) :
    (effectOf i s).frByteCnt = s.frByteCnt := by
  obtain ⟨b, hb, -⟩ | ⟨hopen, -⟩ | hkept := effectOf_frByteCnt i s
  · exact absurd hb (hp b)
  · exact absurd hopen h
  · exact hkept

theorem effectOf_job (hp : ∀ b, i ≠ .frPush b) (h : i ∉ [.keyset, .encb, .decb, .frFinal]) :
    (effectOf i s).job = s.job ∧ (effectOf i s).jin = s.jin ∧ (effectOf i s).started = s.started := by
  cases i with
  | frPush b => exact absurd rfl (hp b)
  | keyset | encb | decb | frFinal => simp at h
  | frAbort => rw [effectOf, abortStream_frame s]; exact ⟨rfl, rfl, rfl⟩
  | _ => exact ⟨rfl, rfl, rfl⟩

end

/-- The error record of `t` is that of `s`, or that of `s` with one more code recorded (60_exceptions.md R221). -/
def RecordsAtMostOnce (s t : State) : Prop :=
  (t.errCode = s.errCode ∧ t.errOvf = s.errOvf) ∨
    ∃ code, t.errCode = recordedCode s.errCode code ∧ t.errOvf = (s.errOvf || s.errCode != .none)

theorem finalStream_records (s : State) : RecordsAtMostOnce s (finalStream s) := by
  by_cases hm : s.frMode = .enc
  · rw [finalStream_of_enc s hm]
    exact .inl ⟨rfl, rfl⟩
  · by_cases h : s.bufCount ≠ 0 ∨ s.laValid = false
    · rw [finalStream_of_lengthError s hm h]
      exact .inr ⟨.length, rfl, rfl⟩
    · rw [finalStream_of_strip s hm h]
      exact .inl ⟨rfl, rfl⟩

theorem abortStream_records (s : State) : RecordsAtMostOnce s (abortStream s) := by
  by_cases h : s.frMode = .idle
  · rw [abortStream_of_idle s h]
    exact .inl ⟨rfl, rfl⟩
  · rw [abortStream_of_open s h]
    exact .inr ⟨.io, rfl, rfl⟩

theorem effectOf_records (i : Instr) (s : State) (h : i ≠ .clrerr) : RecordsAtMostOnce s (effectOf i s) := by
  cases i with
  | clrerr => exact absurd rfl h
  | frPush b => rw [effectOf, pushByte_frame b s]; exact .inl ⟨rfl, rfl⟩
  | frFinal => exact finalStream_records s
  | frAbort => exact abortStream_records s
  | _ => exact .inl ⟨rfl, rfl⟩

/-- Settles O32: a rejected command changes the error record alone, and an accepted one has its effect. -/
theorem commandsLeaveTheRestAlone : Obligations.CommandsLeaveTheRestAlone := by
  intro i s t h
  obtain ⟨code, -, hexec⟩ | ⟨-, -, hexec⟩ := exec_cases i s
  case inl =>
    cases hexec.symm.trans h
    have hrecord : RecordsAtMostOnce s (raiseError code s) := .inr ⟨code, rfl, rfl⟩
    exact ⟨by simp, fun _ => rfl, fun _ => ⟨rfl, rfl, rfl⟩, fun _ => rfl, fun _ _ => rfl, fun _ _ => rfl, fun _ _ => rfl,
      fun _ _ => ⟨rfl, rfl, rfl⟩, fun _ => hrecord⟩
  case inr =>
    cases hexec.symm.trans h
    refine ⟨?untouched, effectOf_keyValid i s, effectOf_stream i s, effectOf_outq i s, effectOf_bufCount i s,
      effectOf_buf i s, effectOf_frByteCnt_kept i s, effectOf_job i s, effectOf_records i s⟩
    rw [effectOf_frame i s]
    simp only [and_self]

end Sys2Proof.Machine
end

section
/-! SUPPORT. The Feistel network as one fold over its subkeys: mirroring the rounds renames the halves, and running the
subkeys backwards on the swapped halves takes every round back (42_feistel_core.md R149 to R152). -/

namespace Sys2Proof.Machine

/-! The round function (42_feistel_core.md R149). -/

/-- The S-boxes in the order of the groups they substitute. -/
def sboxes : Vector SBox 8 := #v[sbox1, sbox2, sbox3, sbox4, sbox5, sbox6, sbox7, sbox8]

/-- Eight nibbles put together, the first most significant. -/
def wordOfNibbles (v : Vector (BitVec 4) 8) : BitVec (4 + 4 + 4 + 4 + 4 + 4 + 4 + 4) :=
  v[0] ++ v[1] ++ v[2] ++ v[3] ++ v[4] ++ v[5] ++ v[6] ++ v[7]

theorem nibble_wordOfNibbles (v : Vector (BitVec 4) 8) (j : Fin 8) :
    (wordOfNibbles v).extractLsb' (28 - 4 * j.val) 4 = v[j] := by
  unfold wordOfNibbles
  fin_cases j <;>
    simp +decide only [BitVec.extractLsb'_append_eq_of_le, BitVec.extractLsb'_append_eq_of_add_le,
      BitVec.extractLsb'_eq_self, Nat.reduceMul, Nat.reduceSub, Fin.getElem_fin]

/-- The `j`-th 6-bit group through the `j`-th box. -/
def substituteGroup (x : BitVec 48) (j : Fin 8) : BitVec 4 := sboxes[j].lookup (x.extractLsb' (42 - 6 * j.val) 6)

theorem substitute_eq_wordOfNibbles (x : BitVec 48) :
    substitute x = wordOfNibbles (Vector.ofFn (substituteGroup x)) := rfl

/-- Settles O12: the word the round permutation moves is the substitution layer's, nibble by nibble. -/
theorem roundFunctionByGroups : Obligations.RoundFunctionByGroups := by
  refine fun r k => ⟨substitute (permute tableE r ^^^ k), rfl, fun j => ?_⟩
  rw [substitute_eq_wordOfNibbles]
  exact (nibble_wordOfNibbles _ j).trans (Vector.getElem_ofFn j.isLt)

/-! Mirrored and unmirrored rounds (42_feistel_core.md R151, R152 item 1). -/

/-- The mirrored round differs from the round in the names of the halves only. -/
theorem mirroredRound_eq_feistelRound : mirroredRound = feistelRound := rfl

/-- Settles O14: with the mirrored round a renamed round, decryption is the fold of encryption over the subkeys
reversed. -/
theorem mirroredFormIsReversedSchedule : Obligations.MirroredFormIsReversedSchedule := by
  intro ks x
  rw [decrypt, mirroredRound_eq_feistelRound, encrypt, Vector.toList_reverse]
  rfl

/-! Running the rounds back (42_feistel_core.md R152 item 2). -/

/-- A round on its own result, halves swapped, restores its input, halves swapped. -/
theorem feistelRound_swap_feistelRound (lr : Half × Half) (k : Subkey) :
    feistelRound (feistelRound lr k).swap k = lr.swap := by
  simp only [feistelRound, Prod.swap, BitVec.xor_assoc, BitVec.xor_self, BitVec.xor_zero]

theorem foldl_feistelRound_reverse_swap (ks : List Subkey) (lr : Half × Half) :
    ks.reverse.foldl feistelRound (ks.foldl feistelRound lr).swap = lr.swap := by
  induction ks generalizing lr with
  | nil => rfl
  | cons k ks ih =>
    rw [List.reverse_cons, List.foldl_append, List.foldl_cons, List.foldl_cons, ih, List.foldl_nil,
      feistelRound_swap_feistelRound]

theorem splitIP_joinFP (lr : Half × Half) : splitIP (joinFP lr) = lr.swap := by
  simp only [splitIP, joinFP, permute_permute_of_undoes _ _ tableIP_undoes_tableFP,
    BitVec.extractLsb'_append_eq_left, BitVec.extractLsb'_append_eq_right]
  rfl

theorem joinFP_swap_splitIP (x : Block) : joinFP (splitIP x).swap = x :=
  (congrArg (permute tableFP) (hiWord_append_loWord (permute tableIP x))).trans
    (permute_permute_of_undoes _ _ tableFP_undoes_tableIP x)

theorem encrypt_reverse_encrypt (ks : Subkeys) (x : Block) : encrypt ks.reverse (encrypt ks x) = x := by
  rw [encrypt, encrypt, splitIP_joinFP, Vector.toList_reverse, foldl_feistelRound_reverse_swap, joinFP_swap_splitIP]

/-- Settles O13: decryption is encryption under the reversed subkeys, and reversing twice is reversing not at all. -/
theorem decryptUndoesEncrypt : Obligations.DecryptUndoesEncrypt := by
  refine fun ks x => ⟨?_, ?_⟩
  · rw [mirroredFormIsReversedSchedule, encrypt_reverse_encrypt]
  · have hback := encrypt_reverse_encrypt ks.reverse x
    rwa [Vector.reverse_reverse, ← mirroredFormIsReversedSchedule] at hback

end Sys2Proof.Machine
end

section
/-! SUPPORT. Complementing commutes with every part of the key schedule and of the Feistel network, except that the
round function does not see it (42_feistel_core.md R152 item 4). -/

namespace Sys2Proof.Machine

variable {w o : Nat}

/-! Permutations, rotations and halves. -/

theorem pos_not (x : BitVec w) (p : Nat) (hp : 1 ≤ p) (hw : p ≤ w) : pos (~~~x) p = !pos x p := by
  have hlt : w - p < w := by omega
  simp [pos, hlt]

theorem permute_not (t : Table w o) (x : BitVec w) : permute t (~~~x) = ~~~permute t x := by
  refine eq_of_pos_eq _ _ fun i hi ho => ?_
  have hlt : i - 1 < t.entries.length := by have := t.length_eq; omega
  have hentry : t.entries[i - 1]? = some t.entries[i - 1] := List.getElem?_eq_getElem hlt
  obtain ⟨hp, hw⟩ := t.inRange _ (List.getElem_mem hlt)
  rw [pos_not _ i hi ho, pos_permute t _ i _ hi hentry, pos_permute t _ i _ hi hentry, pos_not _ _ hp hw]

/-- A slice up to the top bit included, where the library's lemma stops below it. -/
theorem extractLsb'_not (x : BitVec w) (start len : Nat) (h : start + len ≤ w) :
    (~~~x).extractLsb' start len = ~~~x.extractLsb' start len := by
  ext i hi
  have hlt : start + i < w := by omega
  simp [hlt]

theorem rotateLeft_not (x : BitVec w) (n : Nat) : (~~~x).rotateLeft n = ~~~x.rotateLeft n := by
  refine BitVec.eq_of_getMsbD_eq fun i hi => ?_
  have hlt : (n + i) % w < w := Nat.mod_lt _ (by omega)
  simp [BitVec.getMsbD_rotateLeft, BitVec.getMsbD_not, hi, hlt]

/-- Both halves complemented. -/
def notHalves (h : BitVec w × BitVec w) : BitVec w × BitVec w := (~~~h.1, ~~~h.2)

/-! The key schedule. -/

theorem initialHalves_not (k : Block) : initialHalves (~~~k) = notHalves (initialHalves k) := by
  simp only [initialHalves, notHalves, permute_not, extractLsb'_not, Nat.reduceAdd, Nat.reduceLeDiff, Nat.le_refl]

theorem halvesAfter_not (k : Block) (n : Nat) : halvesAfter (~~~k) n = notHalves (halvesAfter k n) := by
  simp only [halvesAfter_eq_rotateLeft, initialHalves_not, notHalves, rotateLeft_not]

theorem subkeyOf_notHalves (h : KeyHalf × KeyHalf) : subkeyOf (notHalves h) = ~~~subkeyOf h := by
  rw [subkeyOf, subkeyOf, notHalves, ← BitVec.not_append, permute_not]

theorem keySchedule_not (k : Block) : keySchedule (~~~k) = (keySchedule k).map (~~~·) := by
  refine Vector.ext fun i hi => ?_
  rw [Vector.getElem_map, keySchedule_getElem, keySchedule_getElem, halvesAfter_not, subkeyOf_notHalves]

/-! The network. -/

/-- The XOR of the expanded half and the subkey cancels the two complements. -/
theorem roundF_not_not (r : Half) (k : Subkey) : roundF (~~~r) (~~~k) = roundF r k := by
  rw [roundF, roundF, permute_not, ← BitVec.not_xor_left, ← BitVec.not_xor_right, BitVec.not_not]

theorem feistelRound_notHalves (lr : Half × Half) (k : Subkey) :
    feistelRound (notHalves lr) (~~~k) = notHalves (feistelRound lr k) := by
  simp only [feistelRound, notHalves, roundF_not_not, BitVec.not_xor_left]

theorem splitIP_not (x : Block) : splitIP (~~~x) = notHalves (splitIP x) := by
  simp only [splitIP, notHalves, permute_not, extractLsb'_not, Nat.reduceAdd, Nat.reduceLeDiff, Nat.le_refl]

theorem joinFP_notHalves (lr : Half × Half) : joinFP (notHalves lr) = ~~~joinFP lr := by
  rw [joinFP, joinFP, notHalves, ← BitVec.not_append, permute_not]

theorem encrypt_map_not (ks : Subkeys) (x : Block) : encrypt (ks.map (~~~·)) (~~~x) = ~~~encrypt ks x := by
  rw [encrypt, encrypt, splitIP_not, Vector.toList_map, List.foldl_map,
    List.foldl_hom notHalves feistelRound_notHalves, joinFP_notHalves]

/-- Settles O15: the complemented key has the complemented subkeys, under which the network complements its block. -/
theorem complementationProperty : Obligations.ComplementationProperty := fun k m => by
  rw [keySchedule_not, encrypt_map_not]

end Sys2Proof.Machine
end

section
/-! SUPPORT. Keys whose rounds all use one subkey, and the worked examples (42_feistel_core.md R150 to R153). -/

namespace Sys2Proof.Machine

/-! Weak keys (42_feistel_core.md R152 item 5). -/

theorem reverse_of_equal (ks : Subkeys) (h : ∀ i j : Fin 16, ks[i] = ks[j]) : ks.reverse = ks := by
  refine Vector.ext fun i hi => ?_
  rw [Vector.getElem_reverse]
  exact h ⟨15 - i, by omega⟩ ⟨i, hi⟩

/-- A half whose bits are all equal. -/
def ConstantHalf (h : KeyHalf) : Prop := h = 0 ∨ h = ~~~0

theorem rotateLeft_of_constantHalf (h : KeyHalf) (hc : ConstantHalf h) (n : Nat) : h.rotateLeft n = h := by
  have hzero : (0 : KeyHalf).rotateLeft n = 0 := BitVec.eq_of_getMsbD_eq fun i _ => by simp [BitVec.getMsbD_rotateLeft]
  rcases hc with rfl | rfl
  · exact hzero
  · rw [rotateLeft_not, hzero]

/-- A key is weak when both halves PC-1 gives are constant. -/
def WeakKey (k : Block) : Prop := ConstantHalf (initialHalves k).1 ∧ ConstantHalf (initialHalves k).2

/-- No rotation moves the halves of a weak key, so every round has the subkey of the halves PC-1 gave. -/
theorem keySchedule_getElem_of_weakKey (k : Block) (h : WeakKey k) (i : Fin 16) :
    (keySchedule k)[i] = subkeyOf (initialHalves k) := by
  obtain ⟨hc, hd⟩ := h
  refine (keySchedule_getElem k i i.isLt).trans ?_
  rw [halvesAfter_eq_rotateLeft, rotateLeft_of_constantHalf _ hc, rotateLeft_of_constantHalf _ hd]

theorem weakKey_of_named :
    ∀ k ∈ ([0x0101010101010101, 0xFEFEFEFEFEFEFEFE, 0xE0E0E0E0F1F1F1F1, 0x1F1F1F1F0E0E0E0E, 0, 0xFFFFFFFFFFFFFFFF] :
      List Block), WeakKey k := by
  simp only [List.forall_mem_cons, List.not_mem_nil, false_implies, implies_true, and_true, WeakKey, ConstantHalf]
  decide +kernel

/-- Settles O16: equal subkeys read the same in both orders, and the named keys have constant halves. -/
theorem weakKeysMakeTheTransformsEqual : Obligations.WeakKeysMakeTheTransformsEqual := by
  refine ⟨fun ks h m => ?_, fun k hk i j => ?_⟩
  · rw [mirroredFormIsReversedSchedule, reverse_of_equal ks h]
  · have hweak := weakKey_of_named k hk
    rw [keySchedule_getElem_of_weakKey k hweak, keySchedule_getElem_of_weakKey k hweak]

/-! The worked examples. -/

/-- The example of 42_feistel_core.md R150. -/
theorem encrypt_example :
    encrypt (keySchedule 0x133457799BBCDFF1) 0x0123456789ABCDEF = 0x85E813540F0AB405 := by decide +kernel

/-- The example of 42_feistel_core.md R153. -/
theorem encb_example :
    encrypt (keySchedule 0x0011223344556677) 0x0F1E2D3C4B5A6978 = 0x1BD6EF8BA5A0619C := by decide +kernel

/-- Settles O17: the two encryptions are computed, and the decryption undoes the first. -/
theorem knownAnswers : Obligations.KnownAnswers := by
  refine ⟨encrypt_example, ?_, encb_example⟩
  rw [← encrypt_example]
  exact (decryptUndoesEncrypt (keySchedule 0x133457799BBCDFF1) 0x0123456789ABCDEF).1

end Sys2Proof.Machine
end

section
/-! SUPPORT. Block jobs: the acceptance of `ENCB` and `DECB`, the micro-steps of the iterative datapath, and the
completion step (42_feistel_core.md R153 to R155). -/

namespace Sys2Proof.Machine

/-! Acceptance (42_feistel_core.md R153, R154). -/

theorem Direction.exec_command (dir : Direction) (s : State) (hb : s.busy = false) (hk : s.keyValid = true) :
    exec dir.command s = .next (latchJob dir.job s.din s) := by
  have hpass : firstError (checksOf dir.command s) = none := by simp [dir.checksOf_command, hk]
  rw [exec_of_ok _ s hb hpass, dir.effectOf_command]

/-- Settles O22: the session is the only check beyond BUSY, and the effect is the latch of `DIN`. -/
theorem encbAndDecbAreAccepted : Obligations.EncbAndDecbAreAccepted := fun s hb hk =>
  ⟨Direction.encrypting.exec_command s hb hk, Direction.decrypting.exec_command s hb hk⟩

/-! Completion (42_feistel_core.md R153, R154). -/

/-- Settles O34: the registers the statement leaves free are those `settleRounds` writes. -/
theorem blockCompletionWritesDout : Obligations.BlockCompletionWritesDout := by
  refine fun s => ⟨fun hj => ?_, fun hj => ?_⟩
  · rw [engineStep_of_encb s hj]
    rfl
  · rw [engineStep_of_decb s hj]
    rfl

/-! The rounds of the datapath are the rounds of the transform (42_feistel_core.md R155). -/

/-- The subkeys in the order the direction's rounds use them. -/
def Direction.schedule : Direction → Subkeys → Subkeys
  | .encrypting, ks => ks
  | .decrypting, ks => ks.reverse

theorem Direction.schedule_getElem (dir : Direction) (ks : Subkeys) (i : Fin 16) :
    (dir.schedule ks)[i] = roundKey dir ks i := by
  cases dir with
  | encrypting => rfl
  | decrypting =>
    refine (Vector.getElem_reverse i.isLt).trans ?_
    simp only [roundKey, Fin.getElem_fin, Fin.val_rev, Nat.sub_sub, Nat.add_comm]

theorem Direction.encrypt_schedule (dir : Direction) (ks : Subkeys) (x : Block) :
    encrypt (dir.schedule ks) x = dir.transform ks x := by
  cases dir with
  | encrypting => rfl
  | decrypting => exact (mirroredFormIsReversedSchedule ks x).symm

theorem roundsAfter_succ (dir : Direction) (ks : Subkeys) (x : Block) (n : Nat) (h : n < 16) :
    roundsAfter dir ks x (n + 1) = feistelRound (roundsAfter dir ks x n) (roundKey dir ks ⟨n, h⟩) := by
  rw [roundsAfter, dif_pos h]

theorem roundsAfter_eq_foldl (dir : Direction) (ks : Subkeys) (x : Block) (n : Nat) (hn : n ≤ 16) :
    roundsAfter dir ks x n = ((dir.schedule ks).toList.take n).foldl feistelRound (splitIP x) := by
  induction n with
  | zero => rfl
  | succ n ih =>
    have hlt : n < (dir.schedule ks).toList.length := by rw [Vector.length_toList]; omega
    have hkey : (dir.schedule ks).toList[n] = roundKey dir ks ⟨n, hn⟩ :=
      (Vector.getElem_toList hlt).trans (dir.schedule_getElem ks ⟨n, hn⟩)
    rw [roundsAfter_succ dir ks x n hn, ih (by omega), ← List.take_append_getElem hlt, hkey, List.foldl_append,
      List.foldl_cons, List.foldl_nil]

/-- The final permutation after sixteen rounds gives the direction's transform. -/
theorem joinFP_roundsAfter (dir : Direction) (ks : Subkeys) (x : Block) :
    joinFP (roundsAfter dir ks x 16) = dir.transform ks x := by
  have hall : (dir.schedule ks).toList.take 16 = (dir.schedule ks).toList :=
    List.take_of_length_le (Nat.le_of_eq Vector.length_toList)
  rw [roundsAfter_eq_foldl dir ks x 16 (Nat.le_refl 16), hall, ← encrypt, dir.encrypt_schedule]

/-! The micro-steps (42_feistel_core.md R155). -/

/-- The jobs a direction of the datapath serves. -/
def Direction.Serves : Direction → Job → Prop
  | .encrypting, j => j = .encb ∨ j = .frEnc ∨ j = .frEncFinal
  | .decrypting, j => j = .decb ∨ j = .frDec

theorem Direction.microStep_of_serves (dir : Direction) (s : State) (h : dir.Serves s.job) :
    microStep s = microRound dir s := by
  cases dir with
  | encrypting => obtain hj | hj | hj := h <;> simp only [microStep, hj]
  | decrypting => obtain hj | hj := h <;> simp only [microStep, hj]

/-- The first micro-step loads the halves of IP. -/
theorem microRound_of_unstarted (dir : Direction) (s : State) (h : s.started = false) :
    microRound dir s = { s with l := (splitIP s.jin).1, r := (splitIP s.jin).2, rc := 0, started := true } := by
  rw [microRound, if_pos h]

/-- Each further micro-step is the next Feistel round. -/
theorem microRound_of_round (dir : Direction) (s : State) (hs : s.started = true) (h : s.rc.val < 16) :
    microRound dir s =
      { s with
        l := (feistelRound (s.l, s.r) (roundKey dir s.ks ⟨s.rc.val, h⟩)).1
        r := (feistelRound (s.l, s.r) (roundKey dir s.ks ⟨s.rc.val, h⟩)).2
        rc := ⟨s.rc.val + 1, by omega⟩ } := by
  rw [microRound, if_neg (by simp [hs]), dif_pos h]

/-- The state with `n` Feistel rounds of its latched block run. -/
def afterBlockRounds (dir : Direction) (s : State) (n : Nat) : State :=
  { s with
    l := (roundsAfter dir s.ks s.jin n).1
    r := (roundsAfter dir s.ks s.jin n).2
    rc := Fin.ofNat 17 n
    started := true }

theorem afterBlockRounds_rc (dir : Direction) (s : State) (n : Nat) (hn : n ≤ 16) :
    (afterBlockRounds dir s n).rc.val = n := Nat.mod_eq_of_lt (by omega)

theorem microRound_afterBlockRounds (dir : Direction) (s : State) (n : Nat) (hn : n < 16) :
    microRound dir (afterBlockRounds dir s n) = afterBlockRounds dir s (n + 1) := by
  have hrc : (afterBlockRounds dir s n).rc.val = n := afterBlockRounds_rc dir s n (by omega)
  have hnext : Fin.ofNat 17 (n + 1) = ⟨n + 1, by omega⟩ := Fin.ext (Nat.mod_eq_of_lt (by omega))
  rw [microRound_of_round dir _ rfl (by omega)]
  simp only [hrc]
  simp only [afterBlockRounds, roundsAfter_succ _ _ _ n hn, hnext]

/-- A pending block job after its loading micro-step and `n` more has run `n` rounds. -/
theorem Direction.microStep_iterate_succ (dir : Direction) (s : State) (n : Nat) (hj : dir.Serves s.job)
    (hs : s.started = false) (hn : n ≤ 16) : microStep^[n + 1] s = afterBlockRounds dir s n := by
  induction n with
  | zero => exact (dir.microStep_of_serves s hj).trans (microRound_of_unstarted dir s hs)
  | succ n ih =>
    rw [Function.iterate_succ_apply', ih (by omega), dir.microStep_of_serves (afterBlockRounds dir s n) hj,
      microRound_afterBlockRounds dir s n hn]

/-- The clauses of O18 for one direction. -/
theorem Direction.microSteps_compute_transform (dir : Direction) (s : State) (n : Nat) (hj : dir.Serves s.job)
    (hs : s.started = false) (hn : n ≤ 16) :
    let t := microStep^[n + 1] s
    (t.l, t.r) = roundsAfter dir s.ks s.jin n ∧ t.rc.val = n ∧
    t = { s with l := t.l, r := t.r, rc := t.rc, started := true } ∧
    (n = 16 → joinFP (t.l, t.r) = dir.transform s.ks s.jin) := by
  rw [dir.microStep_iterate_succ s n hj hs hn]
  refine ⟨rfl, afterBlockRounds_rc dir s n hn, rfl, ?_⟩
  rintro rfl
  exact joinFP_roundsAfter dir s.ks s.jin

/-- Settles O18: the state after each micro-step is known exactly, in both directions alike. -/
theorem blockMicroStepsComputeTheTransform : Obligations.BlockMicroStepsComputeTheTransform := fun s n hs hn =>
  ⟨fun hj => Direction.encrypting.microSteps_compute_transform s n hj hs hn,
    fun hj => Direction.decrypting.microSteps_compute_transform s n hj hs hn⟩

end Sys2Proof.Machine
end

section
/-! SUPPORT. Bytes, blocks and chunks: the eight bytes of a block determine it, a chunk is its bytes and then its
padding, and how many bytes of a block are stripped (00_scope.md R11; 43_stream_framer.md R176, R178, R181). -/

namespace Sys2Proof.Machine

/-! The bytes of a block (00_scope.md R11). -/

theorem blockBytes_eq_map (b : Block) : blockBytes b = (List.range 8).map (byteOf b) := rfl

theorem blockBytes_getElem (b : Block) (j : Nat) (h : j < (blockBytes b).length) : (blockBytes b)[j] = byteOf b j := by
  simp only [blockBytes_eq_map, List.getElem_map, List.getElem_range]

theorem byteOf_blockOf (v : Vector Byte 8) (j : Fin 8) : byteOf (blockOf v) j.val = v[j] := by
  unfold blockOf byteOf
  fin_cases j <;>
    simp +decide only [BitVec.extractLsb'_append_eq_of_le, BitVec.extractLsb'_append_eq_of_add_le,
      BitVec.extractLsb'_eq_self, Nat.reduceMul, Nat.reduceSub, Fin.getElem_fin]

@[simp] theorem blockBytes_blockOf (v : Vector Byte 8) : blockBytes (blockOf v) = v.toList :=
  List.ext_getElem (by simp [blockBytes_length]) fun j h _ => by
    rw [blockBytes_getElem]
    exact byteOf_blockOf v ⟨j, h⟩

/-- Bit `i` of a block is in byte `7 - i / 8`. -/
theorem getLsbD_eq_byteOf (b : Block) (i : Nat) (h : i < 64) :
    b.getLsbD i = (byteOf b (7 - i / 8)).getLsbD (i % 8) := by
  have hbit : i % 8 < 8 := Nat.mod_lt i (by decide)
  rw [byteOf, BitVec.getLsbD_extractLsb', decide_eq_true hbit, Bool.true_and]
  congr 1
  omega

theorem blockBytes_injective : Function.Injective blockBytes := fun x y hxy => by
  refine BitVec.eq_of_getLsbD_eq fun i hi => ?_
  have hbyte : byteOf x (7 - i / 8) = byteOf y (7 - i / 8) := by
    have hlt : 7 - i / 8 < 8 := by omega
    rw [← blockBytes_getElem x _ hlt, ← blockBytes_getElem y _ hlt]
    exact List.getElem_of_eq hxy hlt
  rw [getLsbD_eq_byteOf x i hi, getLsbD_eq_byteOf y i hi, hbyte]

/-! Chunks (43_stream_framer.md R176, R181). -/

/-- A chunk is its bytes, and then as many bytes of padding as are missing, each of that value. -/
theorem chunkOf_toList (l : List Byte) (h : l.length ≤ 8) :
    (chunkOf l).toList = l ++ List.replicate (8 - l.length) (padValue l.length) := by
  refine List.ext_getElem (by simp; omega) fun j hj _ => ?_
  simp only [chunkOf, Vector.getElem_toList, Vector.getElem_ofFn, List.getElem_append, List.getElem_replicate,
    List.getD_eq_getElem?_getD]
  split
  · next hlt => rw [List.getElem?_eq_getElem hlt, Option.getD_some]
  · next hge => rw [List.getElem?_eq_none (Nat.le_of_not_lt hge), Option.getD_none]

theorem blockBytes_chunk_of_whole (l : List Byte) (h : l.length = 8) : blockBytes (blockOf (chunkOf l)) = l := by
  rw [blockBytes_blockOf, chunkOf_toList l h.le, h, Nat.sub_self, List.replicate_zero, List.append_nil]

/-- The chunk of a block's bytes is that block. -/
theorem blockOf_chunkOf_blockBytes (b : Block) : blockOf (chunkOf (blockBytes b)) = b :=
  blockBytes_injective (blockBytes_chunk_of_whole _ (blockBytes_length b))

theorem chunkOf_vector (v : Vector Byte 8) : chunkOf v.toList = v := by
  refine Vector.toList_inj.1 ?_
  simp [chunkOf_toList]

/-- Padding the chunk buffer makes the chunk of the bytes held. -/
theorem padChunk_eq_chunkOf (buf : Vector Byte 8) (n : Fin 8) : padChunk buf n = chunkOf (buf.toList.take n.val) := by
  have hlen : (buf.toList.take n.val).length = n.val := by simp
  refine Vector.ext fun j hj => ?_
  simp only [padChunk, chunkOf, Vector.getElem_ofFn, hlen, List.getD_eq_getElem?_getD, List.getElem?_take,
    Fin.lt_def]
  split
  · simp [hj]
  · rfl

/-! The padding heuristic (43_stream_framer.md R178). -/

/-- The last `p` bytes of a block all equal its last byte. -/
theorem all_drop_blockBytes_iff (b : Block) (p : Nat) :
    ((blockBytes b).drop (8 - p)).all (· == byteOf b 7) = true ↔ ∀ j, 8 - p ≤ j → j ≤ 7 → byteOf b j = byteOf b 7 := by
  simp only [List.all_eq_true, List.mem_iff_getElem, beq_iff_eq, List.getElem_drop, blockBytes_getElem,
    List.length_drop, blockBytes_length]
  constructor
  · intro h j hlo hhi
    exact h _ ⟨j - (8 - p), by omega, by congr 1; omega⟩
  · rintro h _ ⟨k, hk, rfl⟩
    exact h _ (by omega) (by omega)

/-- A padding of legal length is stripped. -/
theorem stripLen_of_padding (limit : Nat) (b : Block) (p : Nat) (hpos : 1 ≤ p) (hlimit : p ≤ limit)
    (hlast : (byteOf b 7).toNat = p) (hrun : ∀ j, 8 - p ≤ j → j ≤ 7 → (byteOf b j).toNat = p) :
    stripLen limit b = 8 - p := by
  have hall : ((blockBytes b).drop (8 - p)).all (· == byteOf b 7) = true :=
    (all_drop_blockBytes_iff b p).2 fun j hlo hhi => BitVec.eq_of_toNat_eq ((hrun j hlo hhi).trans hlast.symm)
  simp only [stripLen, hlast]
  exact if_pos ⟨hpos, hlimit, hall⟩

/-- Without one, the whole block is emitted. -/
theorem stripLen_of_no_padding (limit : Nat) (b : Block) (p : Nat) (hlast : (byteOf b 7).toNat = p)
    (hnone : p = 0 ∨ limit < p ∨ ∃ j, 8 - p ≤ j ∧ j ≤ 7 ∧ (byteOf b j).toNat ≠ p) : stripLen limit b = 8 := by
  simp only [stripLen, hlast]
  refine if_neg fun ⟨hpos, hlimit, hall⟩ => ?_
  rcases hnone with hzero | habove | ⟨j, hlo, hhi, hbroken⟩
  · omega
  · omega
  · exact hbroken ((congrArg BitVec.toNat ((all_drop_blockBytes_iff b p).1 hall j hlo hhi)).trans hlast)

/-- Settles O28: the last byte is the only candidate for the run's value, and the run is the last `p` bytes. -/
theorem stripLenFollowsTheHeuristic : Obligations.StripLenFollowsTheHeuristic := fun limit b _ =>
  ⟨fun hpos hlimit => stripLen_of_padding limit b _ hpos hlimit rfl, stripLen_of_no_padding limit b _ rfl⟩

end Sys2Proof.Machine
end

section
/-! SUPPORT. The stream functions block by block: cutting the emitted bytes into blocks gives the blocks back, so
decrypting a framed stream undoes its encryption up to the padding (43_stream_framer.md R181 to R184). -/

namespace Sys2Proof.Machine

/-! Blocks put side by side. -/

/-- The bytes of the first `n` blocks of the sequence `f`. -/
def emitBlocks (f : Nat → Block) (n : Nat) : List Byte := (List.range n).flatMap fun i => blockBytes (f i)

section

variable {f g : Nat → Block} {n i : Nat}

theorem emitBlocks_succ (f : Nat → Block) (n : Nat) : emitBlocks f (n + 1) = emitBlocks f n ++ blockBytes (f n) := by
  simp [emitBlocks, List.range_succ]

@[simp] theorem emitBlocks_length (f : Nat → Block) (n : Nat) : (emitBlocks f n).length = 8 * n := by
  induction n with
  | zero => rfl
  | succ n ih => rw [emitBlocks_succ, List.length_append, ih, blockBytes_length, Nat.mul_succ]

theorem emitBlocks_congr (h : ∀ i < n, f i = g i) : emitBlocks f n = emitBlocks g n :=
  List.flatMap_congr fun i hi => by rw [h i (List.mem_range.1 hi)]

/-- Bytes `8i` to `8i + 7` are block `i`. -/
theorem emitBlocks_chunk (h : i < n) : ((emitBlocks f n).drop (8 * i)).take 8 = blockBytes (f i) := by
  induction n with
  | zero => omega
  | succ n ih =>
    rw [emitBlocks_succ]
    rcases Nat.lt_succ_iff_lt_or_eq.1 h with hlt | rfl
    · rw [List.drop_append_of_le_length (by simp; omega), List.take_append_of_le_length (by simp; omega), ih hlt]
    · rw [List.drop_left' (emitBlocks_length f i), List.take_of_length_le (blockBytes_length _).le]

theorem streamBlock_emitBlocks (h : i < n) : streamBlock (emitBlocks f n) i = f i := by
  rw [streamBlock, emitBlocks_chunk h, blockOf_chunkOf_blockBytes]

end

/-! The blocks of a stream. -/

section

variable (m : List Byte)

/-- The bytes after the last whole block. -/
def streamTail : List Byte := m.drop (8 * (m.length / 8))

@[simp] theorem streamTail_length : (streamTail m).length = m.length % 8 := by
  rw [streamTail, List.length_drop]
  omega

theorem streamTail_of_whole (h : m.length % 8 = 0) : streamTail m = [] :=
  List.length_eq_zero_iff.1 ((streamTail_length m).trans h)

theorem blockBytes_streamBlock (i : Nat) (h : i < m.length / 8) :
    blockBytes (streamBlock m i) = (m.drop (8 * i)).take 8 := by
  rw [streamBlock, blockBytes_chunk_of_whole]
  rw [List.length_take, List.length_drop]
  omega

/-- The last block is the tail in a chunk of its own. -/
theorem streamBlock_last : streamBlock m (m.length / 8) = blockOf (chunkOf (streamTail m)) := by
  rw [streamBlock, ← streamTail, List.take_of_length_le]
  rw [streamTail_length]
  omega

theorem blockBytes_streamBlock_last :
    blockBytes (streamBlock m (m.length / 8)) =
      streamTail m ++ List.replicate (8 - m.length % 8) (padValue (m.length % 8)) := by
  rw [streamBlock_last, blockBytes_blockOf, chunkOf_toList, streamTail_length]
  rw [streamTail_length]
  omega

/-- The whole blocks side by side are the stream up to its tail. -/
theorem emitBlocks_streamBlock (n : Nat) (h : n ≤ m.length / 8) : emitBlocks (streamBlock m) n = m.take (8 * n) := by
  induction n with
  | zero => rfl
  | succ n ih =>
    rw [emitBlocks_succ, ih (by omega), blockBytes_streamBlock m n (by omega), Nat.mul_succ, List.take_add]

theorem emitBlocks_append_streamTail : emitBlocks (streamBlock m) (m.length / 8) ++ streamTail m = m := by
  rw [emitBlocks_streamBlock m _ (Nat.le_refl _), streamTail, List.take_append_drop]

end

/-! Framed encryption and decryption by blocks (43_stream_framer.md R181). -/

theorem frameEncrypt_eq_emitBlocks (ks : Subkeys) (m : List Byte) :
    frameEncrypt ks m = emitBlocks (fun i => encrypt ks (streamBlock m i)) (m.length / 8 + 1) := rfl

theorem frameDecrypt_of_whole (limit : Nat) (ks : Subkeys) (x : List Byte) (n : Nat) (h : x.length = 8 * (n + 1)) :
    frameDecrypt limit ks x =
      some (emitBlocks (fun i => decrypt ks (streamBlock x i)) n ++
        (blockBytes (decrypt ks (streamBlock x n))).take (stripLen limit (decrypt ks (streamBlock x n)))) := by
  have hn : x.length / 8 - 1 = n := by omega
  rw [frameDecrypt, if_neg (by omega), hn]
  rfl

/-- Decrypting encrypted blocks gives all of them but the padding of the last. -/
theorem frameDecrypt_encryptedBlocks (limit : Nat) (ks : Subkeys) (f : Nat → Block) (n : Nat) :
    frameDecrypt limit ks (emitBlocks (fun i => encrypt ks (f i)) (n + 1)) =
      some (emitBlocks f n ++ (blockBytes (f n)).take (stripLen limit (f n))) := by
  have hblock : ∀ i < n + 1,
      decrypt ks (streamBlock (emitBlocks (fun i => encrypt ks (f i)) (n + 1)) i) = f i := fun i hi => by
    rw [streamBlock_emitBlocks hi, (decryptUndoesEncrypt ks (f i)).1]
  rw [frameDecrypt_of_whole limit ks _ n (emitBlocks_length _ _), hblock n (Nat.lt_succ_self n),
    emitBlocks_congr fun i hi => hblock i (Nat.lt_succ_of_lt hi)]

/-! The padded last block (43_stream_framer.md R176, R178, R182). -/

section

variable (m : List Byte) (limit : Nat)

/-- From the tail on, every byte of the last block is the number of bytes missing. -/
theorem byteOf_streamBlock_last (j : Nat) (hlo : m.length % 8 ≤ j) (hhi : j ≤ 7) :
    (byteOf (streamBlock m (m.length / 8)) j).toNat = 8 - m.length % 8 := by
  have hj : j < (blockBytes (streamBlock m (m.length / 8))).length := by rw [blockBytes_length]; omega
  rw [← blockBytes_getElem _ j hj, List.getElem_of_eq (blockBytes_streamBlock_last m) hj,
    List.getElem_append_right (by rwa [streamTail_length]), List.getElem_replicate, padValue, BitVec.toNat_ofNat]
  omega

/-- Padding within the limit is stripped from the last block: the tail is left. -/
theorem take_stripLen_streamBlock_last (h : 8 - m.length % 8 ≤ limit) :
    (blockBytes (streamBlock m (m.length / 8))).take (stripLen limit (streamBlock m (m.length / 8))) =
      streamTail m := by
  rw [stripLen_of_padding limit _ (8 - m.length % 8) (by omega) h (byteOf_streamBlock_last m 7 (by omega) (by omega))
    fun j hlo => byteOf_streamBlock_last m j (by omega), blockBytes_streamBlock_last, List.take_left']
  rw [streamTail_length]
  omega

/-- A whole block of padding is above the limit 7, and stays. -/
theorem take_stripLen_seven_streamBlock_last (h : m.length % 8 = 0) :
    (blockBytes (streamBlock m (m.length / 8))).take (stripLen 7 (streamBlock m (m.length / 8))) =
      List.replicate 8 0x08 := by
  have hlast : (byteOf (streamBlock m (m.length / 8)) 7).toNat = 8 := by
    rw [byteOf_streamBlock_last m 7 (by omega) (by omega), h]
  rw [stripLen_of_no_padding 7 _ 8 hlast (.inr (.inl (by decide))), blockBytes_streamBlock_last,
    streamTail_of_whole m h, h]
  rfl

end

/-- What comes back from a framed stream: its whole blocks, and the last block less its padding. -/
theorem frameDecrypt_frameEncrypt (limit : Nat) (ks : Subkeys) (m : List Byte) :
    frameDecrypt limit ks (frameEncrypt ks m) =
      some (emitBlocks (streamBlock m) (m.length / 8) ++
        (blockBytes (streamBlock m (m.length / 8))).take (stripLen limit (streamBlock m (m.length / 8)))) :=
  frameDecrypt_encryptedBlocks limit ks (streamBlock m) (m.length / 8)

theorem frameDecrypt_frameEncrypt_of_le (limit : Nat) (ks : Subkeys) (m : List Byte) (h : 8 - m.length % 8 ≤ limit) :
    frameDecrypt limit ks (frameEncrypt ks m) = some m := by
  rw [frameDecrypt_frameEncrypt, take_stripLen_streamBlock_last m limit h, emitBlocks_append_streamTail]

/-- Settles O57: the padding of the last block is stripped whenever its length is within the limit, which 8 never is
when the limit is 7. -/
theorem frameLengthAndRoundTrip : Obligations.FrameLengthAndRoundTrip := by
  refine fun ks m => ⟨emitBlocks_length _ _, fun hpart limit hlimit => ?part, fun hwhole => ?whole,
    frameDecrypt_frameEncrypt_of_le 8 ks m (by omega)⟩
  case part => exact frameDecrypt_frameEncrypt_of_le limit ks m (by omega)
  case whole =>
    have hm := emitBlocks_append_streamTail m
    rw [streamTail_of_whole m hwhole, List.append_nil] at hm
    rw [frameDecrypt_frameEncrypt, take_stripLen_seven_streamBlock_last m hwhole, hm]

/-- The last block of a stream of whole blocks is eight bytes `0x08`. -/
theorem streamBlock_last_of_whole (m : List Byte) (h : m.length % 8 = 0) :
    streamBlock m (m.length / 8) = 0x0808080808080808 := by
  rw [streamBlock_last, streamTail_of_whole m h]
  decide

/-- Settles O58: a framed stream's block `i` is the encryption of the stream's block `i` and of nothing else. -/
theorem equalChunksGiveEqualBlocks : Obligations.EqualChunksGiveEqualBlocks := by
  refine fun ks m m' => ⟨fun i j hi hj hsame => ?equal, fun hwhole => ?closing⟩
  case equal =>
    rw [frameEncrypt_eq_emitBlocks, frameEncrypt_eq_emitBlocks, emitBlocks_chunk (Nat.lt_succ_of_le hi),
      emitBlocks_chunk (Nat.lt_succ_of_le hj), hsame]
  case closing => exact ⟨_, by rw [frameEncrypt_eq_emitBlocks, emitBlocks_succ, streamBlock_last_of_whole m hwhole]⟩

/-- Settles O59: one encrypted block is decrypted to its plaintext, whose last bytes are taken for padding. -/
theorem paddingAmbiguityStripsPlaintext : Obligations.PaddingAmbiguityStripsPlaintext := by
  intro ks limit p b _ hpos hlimit hrun
  have hlast : (byteOf b 7).toNat = p := hrun 7 (by omega) (by decide)
  have hblock : blockBytes (encrypt ks b) = emitBlocks (fun _ => encrypt ks b) 1 := by simp [emitBlocks]
  rw [hblock, frameDecrypt_encryptedBlocks limit ks (fun _ => b) 0,
    stripLen_of_padding limit b p hpos hlimit hlast hrun]
  rfl

end Sys2Proof.Machine
end

section
/-! SUPPORT. The framer's commands and jobs: what lets each command through, what it then does, what its job leaves, and
the read that takes the bytes (43_stream_framer.md R171 to R180). -/

namespace Sys2Proof.Machine

/-! What the commands' checks let through. -/

theorem openChecks_of_session (s : State) (hk : s.keyValid = true) (hm : s.frMode = .idle) :
    firstError (openChecks s) = none := by simp [openChecks, hk, hm]

theorem streamChecks_of_room (s : State) (hm : s.frMode ≠ .idle) (hroom : 8 ≤ s.cfg.outDepth - s.outq.length) :
    firstError (streamChecks s) = none := by simp [streamChecks, State.inReady, hm, hroom]

theorem exec_frFinal (s : State) (hb : s.busy = false) (hm : s.frMode ≠ .idle)
    (hroom : 8 ≤ s.cfg.outDepth - s.outq.length) : exec .frFinal s = .next (finalStream s) :=
  exec_of_ok .frFinal s hb (streamChecks_of_room s hm hroom)

/-! The commands (43_stream_framer.md R171 to R179). -/

/-- Settles O23: with a session and no stream open no check fires, and the effect is `openStream`. -/
theorem frOpenStartsAStream : Obligations.FrOpenStartsAStream := fun s hb hk hm =>
  have hpass := openChecks_of_session s hk hm
  ⟨exec_of_ok .frOpenEnc s hb hpass, exec_of_ok .frOpenDec s hb hpass⟩

theorem chunkJob_of_open (m : FrMode) (h : m ≠ .idle) : m.chunkJob = if m = .enc then .frEnc else .frDec := by
  cases m with
  | idle => exact absurd rfl h
  | _ => rfl

/-- The block of a chunk whose eighth byte comes last. -/
theorem blockOf_set_seven (v : Vector Byte 8) (b : Byte) :
    blockOf (v.set 7 b) = v[0] ++ v[1] ++ v[2] ++ v[3] ++ v[4] ++ v[5] ++ v[6] ++ b := by
  simp [blockOf]

/-- Settles O24: the eighth byte completes the block that is latched. -/
theorem frPushStoresItsByte : Obligations.FrPushStoresItsByte := by
  intro s b hb hm hroom
  have hexec : exec (.frPush b) s = .next (pushByte b s) :=
    exec_of_ok (.frPush b) s hb (streamChecks_of_room s hm hroom)
  refine ⟨fun hlt => ?room, fun hfull => ?full⟩
  case room => rw [hexec, pushByte_of_room b s (Fin.ne_of_lt hlt)]
  case full =>
    have hcount : s.bufCount = 7 := Fin.ext hfull
    rw [hexec, pushByte_of_full b s hcount, chunkJob_of_open s.frMode hm]
    simp only [hcount]
    rw [← blockOf_set_seven]
    rfl

/-- The padded chunk keeps the bytes held and fills the other places with their number (43_stream_framer.md R176). -/
theorem padChunk_getElem (buf : Vector Byte 8) (n j : Fin 8) :
    (j.val < n.val → (padChunk buf n)[j] = buf[j]) ∧ (n.val ≤ j.val → (padChunk buf n)[j].toNat = 8 - n.val) := by
  have hchoice : (padChunk buf n)[j] = if j < n then buf[j] else padValue n.val := Vector.getElem_ofFn j.isLt
  rw [hchoice]
  refine ⟨fun hlt => if_pos hlt, fun hle => ?_⟩
  rw [if_neg (Fin.not_lt.2 hle), padValue, BitVec.toNat_ofNat]
  omega

/-- Settles O25: the chunk is the padded one. -/
theorem frFinalPadsInEncMode : Obligations.FrFinalPadsInEncMode := by
  intro s hb hm hroom
  refine ⟨padChunk s.buf s.bufCount, padChunk_getElem s.buf s.bufCount, ?_⟩
  rw [exec_frFinal s hb (by rw [hm]; decide) hroom, finalStream_of_enc s hm]
  rfl

/-- Settles O26: the two clauses are the two branches of `FR_FINAL` outside ENC mode. -/
theorem frFinalStripsInDecMode : Obligations.FrFinalStripsInDecMode := by
  intro s hb hm hroom
  have hnotEnc : s.frMode ≠ .enc := by rw [hm]; decide
  rw [exec_frFinal s hb (by rw [hm]; decide) hroom]
  refine ⟨fun herr => ?error, fun hchunk hla => ?strip⟩
  case error => rw [finalStream_of_lengthError s hnotEnc herr]; rfl
  case strip => rw [finalStream_of_strip s hnotEnc (by simp [hchunk, hla])]; rfl

/-- Settles O27: `FR_ABORT` has no check beyond BUSY, and its effect has the two branches of the statement. -/
theorem frAbortEndsTheStream : Obligations.FrAbortEndsTheStream := by
  intro s hb
  have hexec : exec .frAbort s = .next (abortStream s) := exec_of_ok .frAbort s hb rfl
  refine ⟨fun hm => ?idle, fun hm => ?opened⟩
  case idle => rw [hexec, abortStream_of_idle s hm]
  case opened => rw [hexec, abortStream_of_open s hm]; rfl

/-! The jobs (43_stream_framer.md R174 to R176). -/

/-- Settles O35: the registers the statement leaves free are those `settleRounds` writes. -/
theorem framerCompletionEmitsBytes : Obligations.FramerCompletionEmitsBytes := by
  refine fun s => ⟨fun hj => ?enc, fun hj => ?dec, fun hj => ?final⟩
  case enc => rw [engineStep_of_frEnc s hj]; rfl
  case dec =>
    rw [engineStep_of_frDec s hj]
    cases hla : s.laValid with
    | true => simp only [completeFrDec, hla, if_true]; rfl
    | false => simp only [completeFrDec, hla, Bool.false_eq_true, if_false, pushOut, List.append_nil]; rfl
  case final => rw [engineStep_of_frEncFinal s hj]; rfl

/-! The read of `FR_OUT` (43_stream_framer.md R180). -/

/-- The word a read of `FR_OUT` returns for the byte `b`. -/
def frOutWord (b : Byte) : Word := (1#1 ++ b).setWidth 32

/-- `VALID` is set, the byte is below it, and the other bits are 0. -/
theorem frOutWord_fields (b : Byte) :
    (frOutWord b).getLsbD 8 = true ∧ (frOutWord b).extractLsb' 0 8 = b ∧ (frOutWord b).extractLsb' 9 23 = 0 := by
  have happend : frOutWord b = 0#23 ++ (1#1 ++ b) := BitVec.setWidth_eq_append (by decide)
  have hvalid : (frOutWord b).extractLsb' 8 1 = BitVec.ofBool true := by
    rw [happend, BitVec.extractLsb'_append_eq_of_add_le (by decide)]
    exact BitVec.extractLsb'_append_eq_left
  refine ⟨getLsbD_of_field hvalid, ?_, ?_⟩
  · rw [happend, BitVec.extractLsb'_append_eq_of_add_le (by decide)]
    exact BitVec.extractLsb'_append_eq_right
  · rw [happend]
    exact BitVec.extractLsb'_append_eq_left

/-- Settles O39: the access is admitted, and the FIFO's two cases are the two clauses. -/
theorem frOutPopsTheHeadByte : Obligations.FrOutPopsTheHeadByte := by
  intro s hr
  have hread : busRead (s.cfg.base + 0x20) .w32 s = .next (receive (s.cfg.base + 0x20) (popOut s).1 (popOut s).2) :=
    access_reg .frOut s _ hr
  refine ⟨fun hempty => ?empty, fun b rest hq => ?pop⟩
  case empty => rw [hread, popOut_of_nil s hempty]; rfl
  case pop =>
    obtain ⟨hvalid, hbyte, hzero⟩ := frOutWord_fields b
    exact ⟨frOutWord b, hvalid, hbyte, hzero, by rw [hread, popOut_of_cons s b rest hq]; rfl⟩

end Sys2Proof.Machine
end

section
/-! SUPPORT. Rules for the host programs of a stream under every order of turns: the polling loops `WAIT`, `WAITRDY` and
`DRAIN`, and what may be said between them of the bytes the framer puts out, wherever they are (30_encoding.md R87;
43_stream_framer.md R180; log 18). -/

namespace Sys2Proof.Machine

/-! One round of a polling loop. -/

theorem readReg_hostProg (reg : Reg) (s : State) (ops : List HostOp) :
    readReg reg { s with hostProg := ops } = ((readReg reg s).1, { (readReg reg s).2 with hostProg := ops }) := by
  cases reg with
  | frOut => cases hq : s.outq <;> simp only [readReg, popOut, hq]
  | _ => rfl

/-- The state after the host has read `reg`, with `ops` left to issue. -/
def afterRead (reg : Reg) (ops : List HostOp) (s : State) : State :=
  { receive (s.cfg.base + reg.offset) (readReg reg s).1 (readReg reg s).2 with hostProg := ops }

@[simp] theorem afterRead_hostProg (reg : Reg) (ops : List HostOp) (s : State) :
    (afterRead reg ops s).hostProg = ops := rfl

@[simp] theorem afterRead_outq (reg : Reg) (ops : List HostOp) (s : State) :
    (afterRead reg ops s).outq = (readReg reg s).2.outq := rfl

/-- Reading any register but `FR_OUT` changes only what the host has received. -/
theorem afterRead_of_ne_frOut (reg : Reg) (ops : List HostOp) (s : State) (h : reg ≠ .frOut) :
    afterRead reg ops s =
      { s with hostProg := ops, replies := s.replies ++ [⟨s.cfg.base + reg.offset, (readReg reg s).1⟩] } := by
  rw [afterRead, readReg_state_of_ne_frOut reg s h]
  rfl

section

variable {c : Config} {P Q : State → Prop}

/-- The loop reads once, and stays the host's next operation unless the value read is the wanted one. -/
theorem hostTurn_of_repeatRd (reg : Reg) (mask want : Word) (s : State) (rest : List HostOp) (hs : Quiet c s)
    (hops : s.hostProg = .repeatRd (c.base + reg.offset) mask want :: rest) :
    hostTurn s = .next (afterRead reg (if (readReg reg s).1 &&& mask = want then rest else s.hostProg) s) := by
  obtain ⟨rfl, hr, -⟩ := hs
  have hpoll : pollRead (s.cfg.base + reg.offset) mask want { s with hostProg := rest } = _ :=
    access_reg reg { s with hostProg := rest } _ hr
  obtain ⟨q, hq, -⟩ := readReg_state reg s
  simp only [hostTurn, hops, hpoll, readReg_hostProg, afterRead, hq]
  split <;> rfl

/-- `WAITRDY` looks at `BUSY` and `IN_READY`. -/
theorem statusWord_and_ready (s : State) (hb : s.busy = false) (hready : s.inReady = true) :
    s.statusWord &&& 0x11 = 0x10 := by
  obtain ⟨-, -, -, hin, -⟩ := statusWord_fields s
  have hbit : s.statusWord.getLsbD 4 = true := (getLsbD_of_field hin).trans hready
  rw [show (0x11 : Word) = BitVec.twoPow 32 4 ||| 0x01 from rfl, BitVec.and_or_distrib_left, BitVec.and_twoPow,
    if_pos hbit, (statusWord_and_busy s).2 hb]
  rfl

/-! The bytes the framer has put out: those the host has drained, and those still in the FIFO. -/

/-- The bytes put out since the host's list of replies was empty. -/
def State.output (s : State) : List Byte := drainedBytes s.cfg s.replies ++ s.outq

theorem drainedBytes_append (c : Config) (l l' : List Reply) :
    drainedBytes c (l ++ l') = drainedBytes c l ++ drainedBytes c l' := List.filterMap_append

/-- Reads of the other registers drain nothing. -/
theorem drainedBytes_of_ne_frOut (c : Config) (reg : Reg) (v : Word) (h : reg ≠ .frOut) :
    drainedBytes c [⟨c.base + reg.offset, v⟩] = [] := by
  have hoff : reg.offset ≠ Reg.frOut.offset := by
    cases reg with
    | frOut => exact absurd rfl h
    | _ => decide
  simp [drainedBytes, hoff]

theorem drainedBytes_frOutWord (c : Config) (b : Byte) :
    drainedBytes c [⟨c.base + Reg.frOut.offset, frOutWord b⟩] = [b] := by
  obtain ⟨hvalid, hbyte, -⟩ := frOutWord_fields b
  simp [drainedBytes, hvalid, hbyte]

theorem drainedBytes_zero (c : Config) : drainedBytes c [⟨c.base + Reg.frOut.offset, 0⟩] = [] := by
  simp [drainedBytes]

/-- Reading moves bytes from the FIFO to the host, and loses none. -/
theorem output_of_read (reg : Reg) (s : State) :
    drainedBytes s.cfg (s.replies ++ [⟨s.cfg.base + reg.offset, (readReg reg s).1⟩]) ++ (readReg reg s).2.outq =
      s.output := by
  rw [drainedBytes_append, State.output]
  by_cases hreg : reg = .frOut
  · subst hreg
    cases hq : s.outq with
    | nil => rw [readReg, popOut_of_nil s hq, drainedBytes_zero, hq, List.append_nil]
    | cons b rest =>
      rw [readReg, popOut_of_cons s b rest hq, ← frOutWord, drainedBytes_frOutWord, List.append_assoc]
      rfl
  · rw [drainedBytes_of_ne_frOut _ _ _ hreg, readReg_state_of_ne_frOut reg s hreg, List.append_nil]

/-- `P` says nothing of the host's side, and of the bytes put out not how many are drained. -/
def OutputOnly (P : State → Prop) : Prop :=
  ∀ s turns ops q replies, drainedBytes s.cfg replies ++ q = s.output → P s →
    P { s with turns := turns, hostProg := ops, outq := q, replies := replies }

/-- `P` holds, and the host has drained all output. -/
def Drained (P : State → Prop) (s : State) : Prop := s.outq = [] ∧ P s

/-- `P` holds once the job, if one is pending, has ended. -/
def AfterJob (P : State → Prop) (s : State) : Prop := P (engineStep s)

theorem OutputOnly.host (hP : OutputOnly P) (s : State) (turns : List Turn) (ops : List HostOp) (h : P s) :
    P { s with turns := turns, hostProg := ops } := hP s turns ops s.outq s.replies rfl h

/-- A read keeps such a `P`. -/
theorem OutputOnly.read (hP : OutputOnly P) (reg : Reg) (ops : List HostOp) (s : State) (h : P s) :
    P (afterRead reg ops s) := by
  have hout := output_of_read reg s
  obtain ⟨q, hq, -⟩ := readReg_state reg s
  rw [afterRead, hq]
  rw [hq] at hout
  exact hP s s.turns ops q _ hout h

/-- The completion step does not look at the host's side. -/
theorem engineStep_host (s : State) (turns : List Turn) (ops : List HostOp) (replies : List Reply) :
    engineStep { s with turns := turns, hostProg := ops, replies := replies } =
      { engineStep s with turns := turns, hostProg := ops, replies := replies } := by
  cases hj : s.job <;> simp only [engineStep, hj] <;> rfl

theorem engineStep_replies (s : State) : (engineStep s).replies = s.replies := by rw [engineStep_frame s]

theorem AfterJob.turns (hP : OutputOnly P) (s : State) (ts : List Turn) (h : AfterJob P s) :
    AfterJob P { s with turns := ts } := by
  rw [AfterJob, engineStep_host s ts s.hostProg s.replies]
  exact hP (engineStep s) ts s.hostProg _ s.replies (by rw [State.output, engineStep_replies]) h

/-- A read of any register but `FR_OUT` and the completion of a job do not get in each other's way. -/
theorem AfterJob.read (hP : OutputOnly P) (reg : Reg) (ops : List HostOp) (s : State) (hreg : reg ≠ .frOut)
    (h : AfterJob P s) : AfterJob P (afterRead reg ops s) := by
  rw [afterRead_of_ne_frOut reg ops s hreg, AfterJob, engineStep_host s s.turns ops]
  refine hP (engineStep s) s.turns ops _ _ ?_ h
  rw [State.output, engineStep_cfg, engineStep_replies, drainedBytes_append, drainedBytes_of_ne_frOut _ _ _ hreg,
    List.append_nil]

theorem AfterJob.stable (hP : OutputOnly P) : Stable (AfterJob P) where
  turns := AfterJob.turns hP
  engine := fun s h => by rwa [AfterJob, engineStep_of_idle _ (engineStep_job s)]
  micro := fun s h => by rwa [AfterJob, engineStep_microStep]

theorem AfterJob.of_idle (s : State) (hj : s.job = .none) : AfterJob P s ↔ P s := by
  rw [AfterJob, engineStep_of_idle s hj]

theorem Drained.stable (hP : OutputOnly P) (hidle : ∀ s, P s → s.job = .none) : Stable (Drained P) :=
  .of_idle (fun s h => hidle s h.2) fun s ts h => ⟨h.1, hP.host s ts s.hostProg h.2⟩

/-! One rule for each polling loop. -/

/-- After `WAIT` the job has ended. -/
theorem HostTriple.waitJob (hP : OutputOnly P) : HostTriple c (AfterJob P) [waitOp c] P :=
  Issues.triple (AfterJob.stable hP) fun s rest hs h hops => by
    have hturn := hostTurn_of_repeatRd .status 0x01 0 s rest hs hops
    simp only [readReg, statusWord_and_busy] at hturn
    refine ⟨_, hturn, ?_⟩
    cases hb : s.busy with
    | false =>
      have hj : s.job = .none := (busy_eq_false_iff s).1 hb
      exact .inl ⟨rfl, hP.read .status rest s ((AfterJob.of_idle s hj).1 h)⟩
    | true => exact .inr ⟨rfl, hops, AfterJob.read hP .status _ s (by decide) h⟩

/-- With all output drained and no job pending, `WAITRDY` is over at once: there is room for 8 bytes. -/
theorem HostTriple.waitReady (hP : OutputOnly P) (hidle : ∀ s, P s → s.job = .none) (hdepth : 8 ≤ c.outDepth) :
    HostTriple c (Drained P) [waitRdyOp c] (Drained P) :=
  Issues.triple (Drained.stable hP hidle) fun s rest hs ⟨hq, h⟩ hops => by
    have hturn := hostTurn_of_repeatRd .status 0x11 0x10 s rest hs hops
    have hready : s.inReady = true := by simp [State.inReady, hq, hs.1, hdepth]
    have hover := statusWord_and_ready s ((busy_eq_false_iff s).2 (hidle s h)) hready
    exact ⟨_, hturn, .inl ⟨if_pos hover, hq, hP.read .status _ s h⟩⟩

/-- Without a job the host's next turn comes, whatever the engine does before. -/
theorem Reaches.of_hostTurn_idle {ops : List HostOp} (s : State) (hs : Quiet c s) (hj : s.job = .none)
    (hturn : ∀ ts, Quiet c { s with turns := ts } →
      ∃ t, hostTurn { s with turns := ts } = .next t ∧ t.hostProg = ops ∧ Q t) : Reaches c s ops Q := by
  generalize hts : s.turns = ts
  induction ts generalizing s with
  | nil =>
    obtain ⟨t, ht, hops, hQ⟩ := hturn s.turns hs
    have hstep : step s = .next t := by
      simp [step_of_no_turn s hts, defaultTurn, hs.running, (busy_eq_false_iff s).2 hj, ht]
    exact .of_step_to hstep (hs.hostTurn ht) hops hQ
  | cons turn ts ih =>
    obtain ⟨hturnKind, hs'⟩ := hs.next_turn hts
    have hstep := step_of_turn s turn ts hts
    cases turn with
    | host =>
      obtain ⟨t, ht, hops, hQ⟩ := hturn ts hs'
      exact .of_step_to (hstep.trans ht) (hs'.hostTurn ht) hops hQ
    | engine =>
      rw [takeTurn, engineTurn_of_running { s with turns := ts } hs'.running,
        engineStep_of_idle { s with turns := ts } hj] at hstep
      exact .of_step hstep (ih _ hs' hj hturn rfl)
    | micro =>
      rw [takeTurn, microTurn_of_running { s with turns := ts } hs'.running,
        microStep_of_idle { s with turns := ts } hj] at hstep
      exact .of_step hstep (ih _ hs' hj hturn rfl)
    | reset level => cases hturnKind

theorem frOutWord_and_valid (b : Byte) : ¬ frOutWord b &&& 0x100 = 0 := fun h => by
  have hbit := congrArg (BitVec.getLsbD · 8) h
  rw [BitVec.getLsbD_and, (frOutWord_fields b).1] at hbit
  exact absurd hbit (by decide)

/-- `DRAIN` takes the bytes one by one, and ends when none is left. -/
theorem HostTriple.drain (hP : OutputOnly P) (hidle : ∀ s, P s → s.job = .none) :
    HostTriple c P [drainOp c] (Drained P) := by
  intro s rest hs h hops
  generalize hq : s.outq = q
  induction q generalizing s with
  | nil =>
    refine .of_hostTurn_idle s hs (hidle s h) fun ts hs' => ?_
    have hread : readReg .frOut { s with turns := ts } = (0, { s with turns := ts }) := popOut_of_nil _ hq
    refine ⟨_, hostTurn_of_repeatRd .frOut 0x100 0 _ rest hs' hops, ?_, ?_, ?_⟩
    · rw [afterRead_hostProg, hread]; exact if_pos BitVec.zero_and
    · rw [afterRead_outq, hread]; exact hq
    · exact hP.read .frOut _ _ (hP.host s ts s.hostProg h)
  | cons b q ih =>
    suffices hpop : Reaches c s s.hostProg fun t => P t ∧ t.outq = q from
      hpop.trans fun t ht hops' ⟨hPt, hqt⟩ => ih t ht hPt (hops'.trans hops) hqt
    refine .of_hostTurn_idle s hs (hidle s h) fun ts hs' => ?_
    have hread : readReg .frOut { s with turns := ts } = (frOutWord b, { s with turns := ts, outq := q }) :=
      popOut_of_cons _ b q hq
    refine ⟨_, hostTurn_of_repeatRd .frOut 0x100 0 _ rest hs' hops, ?_, ?_, ?_⟩
    · rw [afterRead_hostProg, hread]; exact if_neg (frOutWord_and_valid b)
    · exact hP.read .frOut _ _ (hP.host s ts s.hostProg h)
    · rw [afterRead_outq, hread]

end

end Sys2Proof.Machine
end

section
/-! SUPPORT. A whole stream, byte by byte: what holds of the framer after each byte pushed, under every order of turns,
and how the stream ends (43_stream_framer.md R171 to R181; 70_reset_and_hazards.md R261). -/

namespace Sys2Proof.Machine

/-! One byte more. -/

section

variable (m l : List Byte) (b : Byte)

theorem wholeCount_concat_of_room (h : m.length % 8 ≠ 7) : (m ++ [b]).length / 8 = m.length / 8 := by
  rw [List.length_append, List.length_singleton]
  omega

theorem wholeCount_concat_of_full (h : m.length % 8 = 7) : (m ++ [b]).length / 8 = m.length / 8 + 1 := by
  rw [List.length_append, List.length_singleton]
  omega

theorem streamTail_concat_of_room (h : m.length % 8 ≠ 7) : streamTail (m ++ [b]) = streamTail m ++ [b] := by
  rw [streamTail, wholeCount_concat_of_room m b h, List.drop_append_of_le_length (by omega), streamTail]

theorem streamTail_concat_of_full (h : m.length % 8 = 7) : streamTail (m ++ [b]) = [] :=
  streamTail_of_whole _ (by rw [List.length_append, List.length_singleton]; omega)

theorem streamBlock_append (i : Nat) (h : i < m.length / 8) : streamBlock (m ++ l) i = streamBlock m i := by
  have hstart : 8 * i ≤ m.length := by omega
  have hend : 8 ≤ (m.drop (8 * i)).length := by rw [List.length_drop]; omega
  rw [streamBlock, List.drop_append_of_le_length hstart, List.take_append_of_le_length hend, streamBlock]

/-- The eighth byte of a chunk completes a block. -/
theorem streamBlock_concat_of_full (h : m.length % 8 = 7) :
    streamBlock (m ++ [b]) (m.length / 8) = blockOf (chunkOf (streamTail m ++ [b])) := by
  rw [streamBlock, List.drop_append_of_le_length (by omega), ← streamTail, List.take_of_length_le]
  rw [List.length_append, streamTail_length, List.length_singleton, h]

/-- The bytes of all whole blocks of `m`, each put through the direction's transform. -/
def Direction.wholeBlocks (dir : Direction) (ks : Subkeys) (m : List Byte) : List Byte :=
  emitBlocks (fun i => dir.transform ks (streamBlock m i)) (m.length / 8)

theorem Direction.wholeBlocks_concat_of_room (dir : Direction) (ks : Subkeys) (h : m.length % 8 ≠ 7) :
    dir.wholeBlocks ks (m ++ [b]) = dir.wholeBlocks ks m := by
  rw [wholeBlocks, wholeCount_concat_of_room m b h]
  exact emitBlocks_congr fun i hi => by rw [streamBlock_append m [b] i hi]

theorem Direction.wholeBlocks_concat_of_full (dir : Direction) (ks : Subkeys) (h : m.length % 8 = 7) :
    dir.wholeBlocks ks (m ++ [b]) =
      dir.wholeBlocks ks m ++ blockBytes (dir.transform ks (blockOf (chunkOf (streamTail m ++ [b])))) := by
  rw [wholeBlocks, wholeCount_concat_of_full m b h, emitBlocks_succ, streamBlock_concat_of_full m b h]
  exact congrArg (· ++ _) (emitBlocks_congr fun i hi => by rw [streamBlock_append m [b] i hi])

end

/-- The first `n + 1` bytes of the buffer once the byte at `n` is stored. -/
theorem take_toList_set (v : Vector Byte 8) (n : Nat) (b : Byte) (h : n < 8) :
    (v.set n b h).toList.take (n + 1) = v.toList.take n ++ [b] := by
  have hlen : n < (v.toList.set n b).length := by simpa using h
  rw [Vector.toList_set, ← List.take_append_getElem hlen, List.getElem_set_self, List.take_set_of_le (Nat.le_refl n)]

/-! A block of a stream through the engine (43_stream_framer.md R174, R175). -/

/-- The stream mode of a direction. -/
def Direction.mode : Direction → FrMode
  | .encrypting => .enc
  | .decrypting => .dec

/-- The command that opens a stream of a direction. -/
def Direction.openCommand : Direction → Instr
  | .encrypting => .frOpenEnc
  | .decrypting => .frOpenDec

/-- The bytes decrypted and held back. -/
def State.held (s : State) : List Byte := if s.laValid then blockBytes s.la else []

/-- A completed chunk's block comes next among the bytes put out and held back, and in DEC mode it is the one held. -/
theorem Direction.engineStep_chunkJob (dir : Direction) (s : State) (hj : s.job = dir.mode.chunkJob)
    (hla : s.laValid = true → dir = .decrypting) :
    (engineStep s).ks = s.ks ∧ (engineStep s).frMode = s.frMode ∧
    ((engineStep s).laValid = true ↔ dir = .decrypting) ∧
    (engineStep s).output ++ (engineStep s).held = s.output ++ s.held ++ blockBytes (dir.transform s.ks s.jin) := by
  cases dir with
  | encrypting =>
    have hnone : s.laValid = false := Bool.eq_false_iff.2 fun h => absurd (hla h) (by decide)
    rw [engineStep_of_frEnc s hj]
    refine ⟨rfl, rfl, iff_of_false (Bool.eq_false_iff.1 hnone) (by decide), ?_⟩
    simp [completeFrEnc, State.output, State.held, settleRounds, hnone, transform]
  | decrypting =>
    rw [engineStep_of_frDec s hj]
    refine ⟨rfl, rfl, iff_of_true rfl rfl, ?_⟩
    simp [completeFrDec, State.output, State.held, settleRounds, transform]

/-! The assertion between two bytes. -/

/-- What stays the same while a stream is pushed: the parameters, the direction, the session's subkeys, and the error
record. -/
structure StreamRun where
  cfg : Config
  dir : Direction
  ks : Subkeys
  code : ErrCode
  ovf : Bool

/-- No job is pending, and `m` is what has been pushed of the open stream: its tail is in the chunk buffer, and its
whole blocks have been put out or are held back. -/
structure StreamRun.At (σ : StreamRun) (m : List Byte) (s : State) : Prop where
  idle : s.job = .none
  params : s.cfg = σ.cfg
  subkeys : s.ks = σ.ks
  mode : s.frMode = σ.dir.mode
  code : s.errCode = σ.code
  ovf : s.errOvf = σ.ovf
  bytes : s.frByteCnt = BitVec.ofNat 32 m.length
  count : s.bufCount.val = m.length % 8
  chunk : s.buf.toList.take s.bufCount.val = streamTail m
  lookahead : s.laValid = true ↔ σ.dir = .decrypting ∧ 8 ≤ m.length
  output : s.output ++ s.held = σ.dir.wholeBlocks σ.ks m

/-- A stream can be opened, and nothing has been put out. -/
structure StreamRun.Ready (σ : StreamRun) (s : State) : Prop where
  idle : s.job = .none
  params : s.cfg = σ.cfg
  session : s.keyValid = true
  subkeys : s.ks = σ.ks
  mode : s.frMode = .idle
  code : s.errCode = σ.code
  ovf : s.errOvf = σ.ovf
  empty : s.outq = []
  undrained : s.replies = []

section

variable {σ : StreamRun} {m : List Byte} {s : State} {Q : State → Prop}

theorem StreamRun.At.outputOnly (σ : StreamRun) (m : List Byte) : OutputOnly (σ.At m) :=
  fun s _ _ _ _ hout h => { h with output := (congrArg (· ++ s.held) hout).trans h.output }

theorem StreamRun.At.open_mode (h : σ.At m s) : s.frMode ≠ .idle := by
  rw [h.mode]
  cases σ.dir <;> decide

/-- A byte that does not complete a chunk only joins it. -/
theorem StreamRun.At.push_of_room (h : σ.At m s) (b : Byte) (hroom : m.length % 8 ≠ 7) :
    σ.At (m ++ [b]) (pushByte b s) := by
  have hcount := h.count
  have hnext : (s.bufCount + 1).val = s.bufCount.val + 1 := by rw [Fin.val_add]; simp; omega
  rw [pushByte_of_room b s fun hfull => hroom (by rw [← hcount, hfull]; rfl)]
  exact {
    h with
    bytes := by simp [h.bytes, BitVec.ofNat_add]
    count := by simp only [List.length_append, List.length_singleton]; omega
    chunk := by
      simp only [hnext]
      rw [take_toList_set, h.chunk, streamTail_concat_of_room m b hroom]
    lookahead := by
      rw [h.lookahead, List.length_append, List.length_singleton]
      exact and_congr_right fun _ => by omega
    output := by
      rw [σ.dir.wholeBlocks_concat_of_room m b σ.ks hroom]
      exact h.output }

/-- The eighth byte of a chunk completes a block, which the job transforms. -/
theorem StreamRun.At.push_of_full (h : σ.At m s) (b : Byte) (hfull : m.length % 8 = 7) :
    σ.At (m ++ [b]) (engineStep (pushByte b s)) := by
  have hcount : s.bufCount = 7 := Fin.ext (h.count.trans hfull)
  have hchunk : (s.buf.set s.bufCount.val b).toList = streamTail m ++ [b] := by
    rw [← h.chunk, ← take_toList_set, List.take_of_length_le]
    simp [hcount]
  have hu := pushByte_of_full b s hcount
  generalize pushByte b s = u at hu ⊢
  have hjob : u.job = σ.dir.mode.chunkJob := by rw [hu, ← h.mode]; rfl
  have hjin : u.jin = blockOf (chunkOf (streamTail m ++ [b])) := by rw [hu, ← hchunk, chunkOf_vector]; rfl
  have hks : u.ks = σ.ks := by rw [hu]; exact h.subkeys
  have hla : u.laValid = true → σ.dir = .decrypting := by rw [hu]; exact fun hla => (h.lookahead.1 hla).1
  have hout : u.output ++ u.held = σ.dir.wholeBlocks σ.ks m := by rw [hu]; exact h.output
  obtain ⟨hks', hmode', hla', hout'⟩ := σ.dir.engineStep_chunkJob u hjob hla
  have hlen : (m ++ [b]).length = m.length + 1 := by rw [List.length_append, List.length_singleton]
  exact {
    idle := engineStep_job u
    params := by rw [engineStep_cfg, hu]; exact h.params
    subkeys := hks'.trans hks
    mode := by rw [hmode', hu]; exact h.mode
    code := by rw [engineStep_frame, hu]; exact h.code
    ovf := by rw [engineStep_frame, hu]; exact h.ovf
    bytes := by rw [engineStep_frByteCnt, hu, hlen, BitVec.ofNat_add, ← h.bytes]; rfl
    count := by rw [engineStep_frame, hu, hlen, Nat.add_mod, hfull]; rfl
    chunk := by rw [engineStep_frame, hu, streamTail_concat_of_full m b hfull]; rfl
    lookahead := by rw [hla', hlen]; exact (and_iff_left (by omega)).symm
    output := by rw [hout', hout, hjin, hks, σ.dir.wholeBlocks_concat_of_full m b σ.ks hfull] }

/-- One more byte pushed, and its job, if it leaves one, completed. -/
theorem StreamRun.At.push (h : σ.At m s) (b : Byte) : AfterJob (σ.At (m ++ [b])) (pushByte b s) := by
  by_cases hfull : m.length % 8 = 7
  · exact h.push_of_full b hfull
  · have hnext := h.push_of_room b hfull
    exact (AfterJob.of_idle _ hnext.idle).2 hnext

end

end Sys2Proof.Machine
end

section
/-! SUPPORT. The host program of one whole stream, from its opening to the last drain (30_encoding.md R86, R87;
43_stream_framer.md R171 to R181; 70_reset_and_hazards.md R261). -/

namespace Sys2Proof.Machine

theorem HostTriple.nil (c : Config) (P : State → Prop) : HostTriple c P [] P :=
  fun s _ hs hP hops => ⟨0, s, rfl, hs, hops, hP⟩

/-! The end of the stream (43_stream_framer.md R176, R177). -/

/-- The stream of `m` is closed, as `STATUS` shows it. -/
structure Closed (m : List Byte) (finished : Bool) (code : ErrCode) (s : State) : Prop where
  idle : s.job = .none
  mode : s.frMode = .idle
  finished : s.frDone = finished
  code : s.errCode = code
  bytes : s.frByteCnt = BitVec.ofNat 32 m.length

/-- The stream of `m` has ended successfully, with no new error, and has put out `out`. -/
def StreamRun.Ended (σ : StreamRun) (m out : List Byte) (s : State) : Prop :=
  Closed m true σ.code s ∧ s.cfg = σ.cfg ∧ s.errOvf = σ.ovf ∧ s.output = out

theorem Closed.outputOnly (m : List Byte) (finished : Bool) (code : ErrCode) : OutputOnly (Closed m finished code) :=
  fun _ _ _ _ _ _ h => { h with }

theorem StreamRun.Ended.outputOnly (σ : StreamRun) (m out : List Byte) : OutputOnly (σ.Ended m out) :=
  fun s turns ops q replies hout ⟨hclosed, hcfg, hovf, h⟩ =>
    ⟨Closed.outputOnly m _ _ s turns ops q replies hout hclosed, hcfg, hovf, hout.trans h⟩

section

variable {σ : StreamRun} {m : List Byte} {s : State}

/-- In ENC mode the tail, padded, is the last block put out (43_stream_framer.md R176). -/
theorem StreamRun.At.final_enc (h : σ.At m s) (hdir : σ.dir = .encrypting) :
    AfterJob (σ.Ended m (frameEncrypt σ.ks m)) (finalStream s) := by
  have hmode : s.frMode = .enc := by rw [h.mode, hdir]; rfl
  have hnone : s.laValid = false :=
    Bool.eq_false_iff.2 fun hla => absurd (hdir.symm.trans (h.lookahead.1 hla).1) (by decide)
  have hlast : blockOf (padChunk s.buf s.bufCount) = streamBlock m (m.length / 8) := by
    rw [padChunk_eq_chunkOf, h.chunk, streamBlock_last]
  have hblocks : s.output = emitBlocks (fun i => encrypt σ.ks (streamBlock m i)) (m.length / 8) := by
    have hout := h.output
    rwa [State.held, hnone, if_neg Bool.false_ne_true, List.append_nil, hdir] at hout
  have hout : (engineStep (finalEnc s)).output =
      s.output ++ blockBytes (encrypt s.ks (streamBlock m (m.length / 8))) := by
    rw [← hlast]
    exact (List.append_assoc ..).symm
  rw [finalStream_of_enc s hmode, AfterJob]
  refine ⟨⟨rfl, rfl, rfl, h.code, h.bytes⟩, h.params, h.ovf, ?_⟩
  rw [hout, hblocks, h.subkeys, frameEncrypt_eq_emitBlocks, emitBlocks_succ]

/-- In DEC mode a stream of whole blocks puts out the held block less its padding (43_stream_framer.md R177). -/
theorem StreamRun.At.final_dec (h : σ.At m s) (hdir : σ.dir = .decrypting) (n : Nat) (hlen : m.length = 8 * (n + 1))
    (out : List Byte) (hdec : frameDecrypt σ.cfg.padStripMax σ.ks m = some out) :
    AfterJob (σ.Ended m out) (finalStream s) := by
  have hmode : s.frMode ≠ .enc := by rw [h.mode, hdir]; decide
  have hla : s.laValid = true := h.lookahead.2 ⟨hdir, by omega⟩
  have hcount : s.bufCount = 0 := Fin.ext (h.count.trans (by rw [hlen, Nat.mul_mod_right]; rfl))
  obtain ⟨hblocks, hlast⟩ : s.output = emitBlocks (fun i => decrypt σ.ks (streamBlock m i)) n ∧
      s.la = decrypt σ.ks (streamBlock m n) := by
    have hout := h.output
    rw [State.held, if_pos hla, hdir, Direction.wholeBlocks, hlen, Nat.mul_div_cancel_left _ (by decide),
      emitBlocks_succ] at hout
    obtain ⟨hfront, hheld⟩ := List.append_inj' hout rfl
    exact ⟨hfront, blockBytes_injective hheld⟩
  rw [finalStream_of_strip s hmode (by simp [hcount, hla])]
  refine (AfterJob.of_idle _ ?_).2 ⟨⟨h.idle, rfl, rfl, h.code, h.bytes⟩, h.params, h.ovf, ?_⟩
  · exact h.idle
  rw [frameDecrypt_of_whole _ _ _ n hlen, Option.some_inj, ← hblocks, ← hlast, ← h.params] at hdec
  rw [← hdec]
  exact (List.append_assoc ..).symm

/-- In DEC mode any other stream fails (43_stream_framer.md R177). -/
theorem StreamRun.At.final_lengthError (h : σ.At m s) (hdir : σ.dir = .decrypting) (hcode : σ.code = .none)
    (hlen : m.length = 0 ∨ m.length % 8 ≠ 0) : AfterJob (Closed m false .length) (finalStream s) := by
  have hmode : s.frMode ≠ .enc := by rw [h.mode, hdir]; decide
  have herr : s.bufCount ≠ 0 ∨ s.laValid = false := by
    rcases hlen with hzero | hpart
    · exact .inr (Bool.eq_false_iff.2 fun hla => by have := (h.lookahead.1 hla).2; omega)
    · exact .inl fun hcount => hpart (h.count.symm.trans (by rw [hcount]; rfl))
  rw [finalStream_of_lengthError s hmode herr]
  refine (AfterJob.of_idle _ ?_).2 ⟨h.idle, rfl, rfl, ?_, h.bytes⟩
  · exact h.idle
  rw [streamFatal_errCode, h.code, hcode, recordedCode_of_none]

/-! The program, operation by operation. -/

variable {Q : State → Prop}

theorem Direction.checksOf_openCommand (dir : Direction) (s : State) : checksOf dir.openCommand s = openChecks s := by
  cases dir <;> rfl

theorem Direction.effectOf_openCommand (dir : Direction) (s : State) :
    effectOf dir.openCommand s = openStream dir.mode s := by cases dir <;> rfl

theorem StreamRun.open_triple (σ : StreamRun) :
    HostTriple σ.cfg σ.Ready [cmdOp σ.cfg σ.dir.openCommand] (Drained (σ.At [])) :=
  .command _ (.of_idle (fun _ h => h.idle) fun _ _ h => { h with }) (fun s h => (busy_eq_false_iff s).2 h.idle)
    (fun s h => by rw [σ.dir.checksOf_openCommand, openChecks_of_session s h.session h.mode])
    fun s ops h => by
      rw [σ.dir.effectOf_openCommand]
      exact ⟨h.empty, {
        idle := h.idle
        params := h.params
        subkeys := h.subkeys
        mode := rfl
        code := h.code
        ovf := h.ovf
        bytes := rfl
        count := rfl
        chunk := rfl
        lookahead := by simp [openStream]
        output := by
          simp [State.output, State.held, openStream, h.empty, h.undrained, drainedBytes, Direction.wholeBlocks,
            emitBlocks] }⟩

/-- `FR_PUSH` and `FR_FINAL` are accepted while the stream is open and its output drained. -/
theorem StreamRun.command_triple (σ : StreamRun) (m : List Byte) (hdepth : 8 ≤ σ.cfg.outDepth) (i : Instr)
    (hchecks : ∀ s, checksOf i s = streamChecks s) (heffect : ∀ s, σ.At m s → AfterJob Q (effectOf i s)) :
    HostTriple σ.cfg (Drained (σ.At m)) [cmdOp σ.cfg i] (AfterJob Q) :=
  .command i (Drained.stable (StreamRun.At.outputOnly σ m) fun _ h => h.idle)
    (fun s h => (busy_eq_false_iff s).2 h.2.idle)
    (fun s ⟨hq, h⟩ => by
      rw [hchecks, streamChecks_of_room s h.open_mode]
      rwa [hq, h.params])
    fun s ops h => heffect _ ((StreamRun.At.outputOnly σ m).host s s.turns ops h.2)

/-- A command, `WAIT` and `DRAIN` leave all output drained. -/
theorem StreamRun.command_wait_drain_triple (σ : StreamRun) (m : List Byte) (hdepth : 8 ≤ σ.cfg.outDepth) (i : Instr)
    (hchecks : ∀ s, checksOf i s = streamChecks s) (heffect : ∀ s, σ.At m s → AfterJob Q (effectOf i s))
    (hQ : OutputOnly Q) (hidle : ∀ s, Q s → s.job = .none) :
    HostTriple σ.cfg (Drained (σ.At m)) [cmdOp σ.cfg i, waitOp σ.cfg, drainOp σ.cfg] (Drained Q) :=
  (σ.command_triple m hdepth i hchecks heffect).seq ((HostTriple.waitJob hQ).seq (HostTriple.drain hQ hidle))

theorem StreamRun.push_triple (σ : StreamRun) (m : List Byte) (hdepth : 8 ≤ σ.cfg.outDepth) (b : Byte) :
    HostTriple σ.cfg (Drained (σ.At m)) ((Pseudo.pushB b).expand σ.cfg ++ [waitOp σ.cfg, drainOp σ.cfg])
      (Drained (σ.At (m ++ [b]))) :=
  (HostTriple.waitReady (StreamRun.At.outputOnly σ m) (fun _ h => h.idle) hdepth).seq
    (σ.command_wait_drain_triple m hdepth (.frPush b) (fun _ => rfl) (fun _ h => h.push b)
      (StreamRun.At.outputOnly σ _) fun _ h => h.idle)

theorem StreamRun.pushes_triple (σ : StreamRun) (m : List Byte) (hdepth : 8 ≤ σ.cfg.outDepth) (bytes : List Byte) :
    HostTriple σ.cfg (Drained (σ.At m))
      (bytes.flatMap fun b => (Pseudo.pushB b).expand σ.cfg ++ [waitOp σ.cfg, drainOp σ.cfg])
      (Drained (σ.At (m ++ bytes))) := by
  induction bytes generalizing m with
  | nil => rw [List.append_nil]; exact .nil _ _
  | cons b bytes ih =>
    have hrest := ih (m ++ [b])
    rw [List.append_assoc] at hrest
    exact (σ.push_triple m hdepth b).seq hrest

/-- The whole program ends with what `FR_FINAL` makes of the stream, all output drained. -/
theorem StreamRun.program_triple (σ : StreamRun) (m : List Byte) (hdepth : 8 ≤ σ.cfg.outDepth) (hQ : OutputOnly Q)
    (hidle : ∀ s, Q s → s.job = .none) (hfinal : ∀ s, σ.At m s → AfterJob Q (finalStream s)) :
    HostTriple σ.cfg σ.Ready (streamOps σ.cfg σ.dir.openCommand m) (Drained Q) :=
  (σ.open_triple.seq (σ.pushes_triple [] hdepth m)).seq
    (σ.command_wait_drain_triple m hdepth .frFinal (fun _ => rfl) hfinal hQ hidle)

/-- From an idle session with nothing put out, the program of a stream runs to its end under every order of turns. -/
theorem stream_runs (s : State) (dir : Direction) (m : List Byte) (hs : s.Inv) (hb : s.busy = false)
    (hkey : s.keyValid = true) (hmode : s.frMode = .idle) (hq : s.outq = []) (hreplies : s.replies = [])
    (hops : s.hostProg = streamOps s.cfg dir.openCommand m) (hundisturbed : s.undisturbed = true) (hQ : OutputOnly Q)
    (hidle : ∀ t, Q t → t.job = .none)
    (hfinal : ∀ t, StreamRun.At ⟨s.cfg, dir, s.ks, s.errCode, s.errOvf⟩ m t → AfterJob Q (finalStream t)) :
    ∃ n t, Sys2Proof.core.run n s = .next t ∧ t.hostProg = [] ∧ t.outq = [] ∧ Q t := by
  have hdepth : 8 ≤ s.cfg.outDepth := by
    have hwf := hs.cfg_wf
    simp only [Config.wf, Bool.and_eq_true, decide_eq_true_eq] at hwf
    exact hwf.1.2.1
  have hready : StreamRun.Ready ⟨s.cfg, dir, s.ks, s.errCode, s.errOvf⟩ s :=
    ⟨(busy_eq_false_iff s).1 hb, rfl, hkey, rfl, hmode, rfl, rfl, hq, hreplies⟩
  obtain ⟨n, t, hrun, -, hdone, hdrained, hQt⟩ :=
    StreamRun.program_triple ⟨s.cfg, dir, s.ks, s.errCode, s.errOvf⟩ m hdepth hQ hidle hfinal s []
      (quiet_of_undisturbed s hundisturbed) hready (hops.trans (List.append_nil _).symm)
  exact ⟨n, t, hrun, hdone, hdrained, hQt⟩

end

theorem Closed.streamEnded {m : List Byte} {code : ErrCode} {t : State} (h : Closed m true code t) :
    t.streamEnded = true := by
  simp [State.streamEnded, (busy_eq_false_iff t).2 h.idle, h.mode, h.finished]

theorem Closed.streamFailed {m : List Byte} {t : State} (h : Closed m false .length t) : t.streamFailed = true := by
  simp [State.streamFailed, h.code, h.mode, h.finished, ErrCode.isStreamFatal]

/-- With all output drained, what was put out is what the host has. -/
theorem drainedBytes_of_drained {t : State} (hq : t.outq = []) : drainedBytes t.cfg t.replies = t.output := by
  rw [State.output, hq, List.append_nil]

/-- Settles O55: after each byte the whole blocks pushed have been encrypted and put out, and `FR_FINAL` adds the padded
tail. -/
theorem encStreamIsFrameEncrypt : Obligations.EncStreamIsFrameEncrypt := by
  intro s m hs hb hkey hmode hq hreplies hops hundisturbed
  obtain ⟨n, t, hrun, hdone, hdrained, hclosed, hcfg, hovf, hout⟩ :=
    stream_runs s .encrypting m hs hb hkey hmode hq hreplies hops hundisturbed
      (StreamRun.Ended.outputOnly _ m (frameEncrypt s.ks m)) (fun _ h => h.1.idle) fun _ h => h.final_enc rfl
  refine ⟨n, t, hrun, hdone, hclosed.streamEnded, hclosed.code, hovf, ?_, hclosed.bytes⟩
  rw [← hout, ← drainedBytes_of_drained hdrained, hcfg]

theorem frameDecrypt_eq_none_iff (limit : Nat) (ks : Subkeys) (x : List Byte) :
    frameDecrypt limit ks x = none ↔ x.length = 0 ∨ x.length % 8 ≠ 0 := by
  simp only [frameDecrypt]
  split
  · next h => exact iff_of_true rfl h
  · next h => exact iff_of_false (Option.some_ne_none _) h

/-- Settles O56: after each byte all whole blocks pushed but the last have been decrypted and put out, and `FR_FINAL`
judges the length and strips the last. -/
theorem decStreamIsFrameDecrypt : Obligations.DecStreamIsFrameDecrypt := by
  intro s x hs hb hkey hmode hq hcode hreplies hops hundisturbed
  have hnone := frameDecrypt_eq_none_iff s.cfg.padStripMax s.ks x
  cases hdec : frameDecrypt s.cfg.padStripMax s.ks x with
  | none =>
    have hlen := hnone.1 hdec
    obtain ⟨n, t, hrun, hdone, -, hclosed⟩ :=
      stream_runs s .decrypting x hs hb hkey hmode hq hreplies hops hundisturbed
        (Closed.outputOnly x false .length) (fun _ h => h.idle) fun _ h => h.final_lengthError rfl hcode hlen
    refine ⟨n, t, hrun, hdone, hclosed.bytes, fun out h => ?_, fun _ => ⟨hclosed.streamFailed, hclosed.code⟩,
      hdec ▸ hnone⟩
    cases h
  | some out =>
    obtain ⟨k, hlen⟩ : ∃ k, x.length = 8 * (k + 1) := by
      have hlen : ¬(x.length = 0 ∨ x.length % 8 ≠ 0) := fun h => by simp [hnone.2 h] at hdec
      exact ⟨x.length / 8 - 1, by omega⟩
    obtain ⟨n, t, hrun, hdone, hdrained, hclosed, hcfg, -, hout⟩ :=
      stream_runs s .decrypting x hs hb hkey hmode hq hreplies hops hundisturbed
        (StreamRun.Ended.outputOnly _ x out) (fun _ h => h.1.idle) fun _ h => h.final_dec rfl k hlen out hdec
    refine ⟨n, t, hrun, hdone, hclosed.bytes, fun out' h => ?_, fun h => ?_, hdec ▸ hnone⟩
    · cases h
      exact ⟨hclosed.streamEnded, hclosed.code.trans hcode, by rw [← hout, ← drainedBytes_of_drained hdrained, hcfg]⟩
    · cases h

end Sys2Proof.Machine
end

section
/-! SUPPORT. The control family: a step of the host that issues a decoded command, the two commands without a job, and
operand writes while a job is pending (44_control.md R210 to R214). -/

namespace Sys2Proof.Machine

/-! The host's write of a command word (44_control.md R210). -/

/-- A word that decodes to a command is that command, which makes the BUSY check itself. -/
theorem issueCommand_of_decode (w : Word) (i : Instr) (s : State) (h : decode w = .ok i) :
    issueCommand w s = exec i s := by
  cases hb : s.busy with
  | true => rw [issueCommand_of_busy w s hb, exec_of_busy i s hb]
  | false => exact issueCommand_of_ok w i s hb h

/-- Outside reset the host's 32-bit write at a register's address is a write of that register. -/
theorem hostTurn_of_regWrite (reg : Reg) (data : BitVec 64) (s : State) (rest : List HostOp) (hr : s.inReset = false)
    (hops : s.hostProg = .wr (s.cfg.base + reg.offset) .w32 data :: rest) :
    hostTurn s = writeReg reg (data.setWidth 32) { s with hostProg := rest } := by
  simp only [hostTurn, hops]
  exact busWrite_reg reg data { s with hostProg := rest } hr

theorem hostTurn_of_command (i : Instr) (data : BitVec 64) (s : State) (rest : List HostOp) (hr : s.inReset = false)
    (hops : s.hostProg = .wr (s.cfg.base + Reg.cmd.offset) .w32 data :: rest) (hd : decode (data.setWidth 32) = .ok i) :
    hostTurn s = exec i { s with hostProg := rest } := by
  rw [hostTurn_of_regWrite .cmd data s rest hr hops]
  exact issueCommand_of_decode _ i _ hd

/-- With no turn listed, no job pending and no reset, the host is to move (00_scope.md R13). -/
theorem step_of_default_host (s : State) (hr : s.inReset = false) (ht : s.turns = []) (hb : s.busy = false) :
    step s = hostTurn s := by
  rw [step_of_no_turn s ht]
  simp [defaultTurn, hr, hb]

/-- Settles O5: whether the host's turn is listed or the default, its write reaches `CMD`, which issues the command. -/
theorem stepRunsDecodedCommand : Obligations.StepRunsDecodedCommand := by
  intro s i data rest hr hops hd
  refine ⟨fun ts ht => ?listed, fun ht hb => ?default⟩
  case listed =>
    rw [step_of_turn s .host ts ht]
    exact hostTurn_of_command i data { s with turns := ts } rest hr hops hd
  case default =>
    rw [step_of_default_host s hr ht hb]
    exact hostTurn_of_command i data s rest hr hops hd

/-! The commands that touch control state only (44_control.md R211, R212). -/

/-- Settles O20: neither command has a check beyond BUSY, and their effects are `id` and `clearError`. -/
theorem nopAndClrerrComplete : Obligations.NopAndClrerrComplete := fun s hb =>
  ⟨exec_of_ok .nop s hb rfl, exec_of_ok .clrerr s hb rfl⟩

/-! Operand writes while a job is pending (44_control.md R214). -/

@[simp] theorem loWord_setLo (b : Block) (v : Word) : loWord (setLo b v) = v := BitVec.extractLsb'_append_eq_right

/-- The completion step works on `JIN`: it neither reads nor writes `KEY` and `DIN`. -/
theorem engineStep_operands (s : State) (k d : Block) :
    engineStep { s with key := k, din := d } = { engineStep s with key := k, din := d } := by
  cases hj : s.job <;> simp only [engineStep, hj] <;> rfl

/-- Settles O36: a write of an operand register stores its half, busy or not, and completion does not look at it. -/
theorem pendingJobIgnoresOperandWrites : Obligations.PendingJobIgnoresOperandWrites := fun s v _ =>
  ⟨⟨rfl, hiWord_setHi s.key v, engineStep_operands s _ _⟩, ⟨rfl, loWord_setLo s.key v, engineStep_operands s _ _⟩,
    ⟨rfl, hiWord_setHi s.din v, engineStep_operands s _ _⟩, ⟨rfl, loWord_setLo s.din v, engineStep_operands s _ _⟩⟩

end Sys2Proof.Machine
end

section
/-! SUPPORT. The error model: which check of a command decides its code, what a rejected command changes, and how a code
is recorded (60_exceptions.md R220 to R224). -/

namespace Sys2Proof.Machine

/-! The order of the checks (60_exceptions.md R224). -/

/-- The code the table of the error codes gives a command is that of the first check its acceptance makes. -/
theorem commandError_eq_firstError (i : Instr) (s : State) :
    commandError i s = firstError ((s.busy, .busy) :: checksOf i s) := by
  cases i <;> simp [commandError, needsSession, sessionClash, needsRoom, checksOf, openChecks, streamChecks]

theorem commandError_eq_none_iff (i : Instr) (s : State) :
    commandError i s = none ↔ s.busy = false ∧ firstError (checksOf i s) = none := by
  rw [commandError_eq_firstError, firstError_cons_eq_none]

theorem exec_of_commandError (i : Instr) (s : State) (code : ErrCode) (h : commandError i s = some code) :
    exec i s = .next (raiseError code s) := by
  obtain ⟨code', hfires, hexec⟩ | ⟨hb, hpass, -⟩ := exec_cases i s
  · rw [← commandError_eq_firstError, h] at hfires
    cases hfires
    exact hexec
  · rw [(commandError_eq_none_iff i s).2 ⟨hb, hpass⟩] at h
    cases h

/-- The checks of a command, BUSY among them, record rejected-command codes only (60_exceptions.md R220). -/
theorem commandError_code (i : Instr) (s : State) (code : ErrCode) (h : commandError i s = some code) :
    code ≠ .none ∧ code.isStreamFatal = false := by
  rw [commandError_eq_firstError] at h
  obtain hbusy | hown := List.mem_cons.1 (mem_of_firstError _ _ h)
  · cases (Prod.mk.inj hbusy).2
    decide
  · exact checksOf_code i s true code hown

theorem issueCommand_of_no_command (w : Word) (s : State) (hb : s.busy = false) (h : ∀ i, decode w ≠ .ok i) :
    issueCommand w s = .next (raiseError .illegal s) := by
  cases hd : decode w with
  | ok i => exact absurd hd (h i)
  | error e => simpa [hb] using issueCommand_of_illegal w s e hd

/-! The error code after an accepted command. -/

theorem finalStream_errCode (s : State) (hm : s.frMode ≠ .idle) :
    (finalStream s).errCode = s.errCode ∨
      (s.frMode = .dec ∧ (finalStream s).errCode = recordedCode s.errCode .length) := by
  cases hmode : s.frMode with
  | idle => exact absurd hmode hm
  | enc => exact .inl (by rw [finalStream_of_enc s hmode]; rfl)
  | dec =>
    have hnotEnc : s.frMode ≠ .enc := by rw [hmode]; decide
    by_cases h : s.bufCount ≠ 0 ∨ s.laValid = false
    · exact .inr ⟨rfl, by rw [finalStream_of_lengthError s hnotEnc h]; rfl⟩
    · exact .inl (by rw [finalStream_of_strip s hnotEnc h]; rfl)

theorem abortStream_errCode (s : State) :
    (abortStream s).errCode = s.errCode ∨ (abortStream s).errCode = recordedCode s.errCode .io := by
  by_cases h : s.frMode = .idle
  · exact .inl (by rw [abortStream_of_idle s h])
  · exact .inr (by rw [abortStream_of_open s h]; rfl)

/-- An accepted command's effect changes the code only to clear it or to end a stream; `FR_FINAL` passes its checks only
with a stream open. -/
theorem effectOf_errCode (i : Instr) (s : State) (hpass : firstError (checksOf i s) = none) :
    (effectOf i s).errCode = s.errCode ∨ i = .clrerr ∨
      (i = .frFinal ∧ s.frMode = .dec ∧ (effectOf i s).errCode = recordedCode s.errCode .length) ∨
      (i = .frAbort ∧ (effectOf i s).errCode = recordedCode s.errCode .io) := by
  cases i with
  | clrerr => exact .inr (.inl rfl)
  | frPush b => exact .inl (by rw [effectOf, pushByte_frame b s])
  | frFinal =>
    exact (finalStream_errCode s (streamChecks_pass s hpass).1).imp id fun hlength => .inr (.inl ⟨rfl, hlength⟩)
  | frAbort => exact (abortStream_errCode s).imp id fun hio => .inr (.inr ⟨rfl, hio⟩)
  | _ => exact .inl rfl

/-- Settles O29: the table of the error codes and the checks made at acceptance have the same first code. -/
theorem firstFiringCheckDecides : Obligations.FirstFiringCheckDecides := by
  intro w s
  refine ⟨issueCommand_of_busy w s, issueCommand_of_no_command w s, fun i hd => ?decoded⟩
  rw [issueCommand_of_decode w i s hd]
  refine ⟨exec_of_commandError i s, fun hnone => ?accepted⟩
  obtain ⟨hb, hpass⟩ := (commandError_eq_none_iff i s).1 hnone
  exact ⟨effectOf i s, exec_of_ok i s hb hpass, effectOf_errCode i s hpass⟩

/-! A rejected command (60_exceptions.md R222). -/

theorem mem_rejectedCodes (code : ErrCode) (hnone : code ≠ .none) (hfatal : code.isStreamFatal = false) :
    code ∈ [ErrCode.illegal, .busy, .nokey, .session, .overrun] := by
  cases code with
  | none => exact absurd rfl hnone
  | length | io => cases hfatal
  | _ => decide

/-- Settles O30: each of the three ways to be rejected answers `raiseError`, which records and does nothing else. -/
theorem rejectedCommandOnlyRecords : Obligations.RejectedCommandOnlyRecords := by
  intro w s code h
  obtain ⟨hbusy, hillegal, hdecoded⟩ := firstFiringCheckDecides w s
  obtain ⟨hb, rfl⟩ | ⟨hb, hd, rfl⟩ | ⟨i, hd, hcode⟩ := h
  · exact ⟨by decide, hbusy hb⟩
  · exact ⟨by decide, hillegal hb hd⟩
  · obtain ⟨hnone, hfatal⟩ := commandError_code i s code hcode
    obtain ⟨hrejected, -⟩ := hdecoded i hd
    exact ⟨mem_rejectedCodes code hnone hfatal, hrejected code hcode⟩

/-! Recording a code (60_exceptions.md R221). -/

theorem isStreamFatal_iff (code : ErrCode) : code.isStreamFatal = true ↔ code ∈ [ErrCode.length, .io] := by
  cases code <;> decide

theorem recordedCode_of_fatal (old code : ErrCode) (hold : old ≠ .none) (hcode : code.isStreamFatal = true)
    (hfirst : ¬ old.isStreamFatal = true) : recordedCode old code = code := by
  simp [recordedCode, hold, hcode, hfirst]

theorem recordedCode_of_kept (old code : ErrCode) (hold : old ≠ .none)
    (h : ¬ code.isStreamFatal = true ∨ old.isStreamFatal = true) : recordedCode old code = old := by
  obtain hcode | hfirst := h
  · simp [recordedCode, hold, hcode]
  · simp [recordedCode, hold, hfirst]

theorem recordError_of_none (code : ErrCode) (s : State) (h : s.errCode = .none) :
    recordError code s = { s with errCode := code } := by
  simp [recordError, h, recordedCode_of_none]

theorem recordError_of_held (code : ErrCode) (s : State) (h : s.errCode ≠ .none) :
    recordError code s = { s with errOvf := true, errCode := recordedCode s.errCode code } := by
  simp [recordError, h]

/-- Settles O31: with a code held the flag is set, and the code recorded is the new one exactly when that one alone is
stream-fatal. -/
theorem recordErrorKeepsTheFirst : Obligations.RecordErrorKeepsTheFirst := by
  intro s code
  refine ⟨recordError_of_none code s, fun hheld => ?held, rfl, rfl, rfl⟩
  rw [recordError_of_held code s hheld]
  simp only [← isStreamFatal_iff]
  refine ⟨fun hcode hfirst => ?displaced, fun hkeep => ?kept⟩
  case displaced => rw [recordedCode_of_fatal _ _ hheld hcode hfirst]
  case kept => rw [recordedCode_of_kept _ _ hheld hkeep]

end Sys2Proof.Machine
end

section
/-! SUPPORT. The reset input and progress: a reset pulse, and the end of a pending job once the listed turns are used up
(70_reset_and_hazards.md R250 to R252, R259). -/

namespace Sys2Proof.Machine

/-! A reset pulse (70_reset_and_hazards.md R250, R251). -/

/-- Whichever of its two moves the engine is given, during reset it makes none. -/
theorem engineMoves_of_reset (s : State) (hr : s.inReset = true) (inside : List Bool) :
    inside.foldl (fun u completes => if completes then engineTurn u else microTurn u) s = s :=
  List.foldl_fixed' (fun completes => by
    cases completes with
    | true => exact engineTurn_of_reset s hr
    | false => exact microTurn_of_reset s hr) inside

theorem resetTurn_of_release (s : State) (hr : s.inReset = true) : resetTurn false s = resetCore s := by
  simp [resetTurn, hr]

/-- Settles O44: during reset the engine does not move, and the release gives every register its value by `resetCore`. -/
theorem resetPulseAbandonsJobAndStream : Obligations.ResetPulseAbandonsJobAndStream := by
  intro s inside asserted held t
  have hheld : held = asserted := engineMoves_of_reset asserted rfl inside
  have hreleased : t = resetCore asserted := by
    rw [← resetTurn_of_release asserted rfl, ← hheld]
  rw [hreleased]
  exact ⟨hheld, rfl, rfl, rfl, rfl, rfl, rfl, rfl, rfl, rfl, rfl, rfl, rfl, rfl, rfl, rfl, rfl, rfl, rfl⟩

/-! An admitted access of the host goes through and leaves nothing else to issue (20_memory.md R61). -/

theorem readReg_keeps_hostProg (reg : Reg) (s : State) : (readReg reg s).2.hostProg = s.hostProg := by
  obtain ⟨q, hq, -⟩ := readReg_state reg s
  rw [hq]

theorem writeReg_next (reg : Reg) (v : Word) (s : State) :
    ∃ t, writeReg reg v s = .next t ∧ t.hostProg = s.hostProg := by
  cases reg with
  | cmd =>
    obtain ⟨code, -, -, h⟩ | ⟨i, -, -, -, h⟩ := issueCommand_cases v s
    · exact ⟨_, h, rfl⟩
    · exact ⟨_, h, by rw [effectOf_frame]⟩
  | _ => exact ⟨_, rfl, rfl⟩

section

variable {addr : Nat} {s : State}

theorem busRead_of_admits {width : Width} (hr : s.inReset = false) (h : s.cfg.admits addr width = true) :
    ∃ t, busRead addr width s = .next t ∧ t.hostProg = s.hostProg := by
  rw [busRead, access_of_admits addr width s _ hr h]
  exact ⟨_, rfl, readReg_keeps_hostProg _ s⟩

theorem busWrite_of_admits {width : Width} (data : BitVec 64) (hr : s.inReset = false)
    (h : s.cfg.admits addr width = true) :
    ∃ t, busWrite addr width data s = .next t ∧ t.hostProg = s.hostProg := by
  rw [busWrite, access_of_admits addr width s _ hr h]
  exact writeReg_next _ _ s

/-- A round of a polling loop ends the loop or leaves it to be issued again. -/
theorem pollRead_of_admits (mask want : Word) (hr : s.inReset = false) (h : s.cfg.admits addr .w32 = true) :
    ∃ t, pollRead addr mask want s = .next t ∧
      (t.hostProg = s.hostProg ∨ t.hostProg = .repeatRd addr mask want :: s.hostProg) := by
  rw [pollRead, access_of_admits addr .w32 s _ hr h]
  have hprog := readReg_keeps_hostProg (regAt (addr - s.cfg.base)) s
  dsimp only
  split
  · exact ⟨_, rfl, .inl hprog⟩
  · exact ⟨_, rfl, .inr (congrArg _ hprog)⟩

end

/-- A turn of the host whose program is admitted answers a next state, where only items of the same program are ahead. -/
theorem hostTurn_of_admitted (s : State) (hr : s.inReset = false)
    (hadmits : ∀ op ∈ s.hostProg, s.cfg.admitsOp op = true) :
    ∃ t, hostTurn s = .next t ∧ t.hostProg ⊆ s.hostProg := by
  unfold hostTurn
  cases hops : s.hostProg with
  | nil => exact ⟨s, rfl, List.subset_nil.2 hops⟩
  | cons op rest =>
    have hop : s.cfg.admitsOp op = true := hadmits op (hops ▸ List.mem_cons_self)
    have hrest : rest ⊆ op :: rest := List.subset_cons_self op rest
    cases op with
    | rd addr width =>
      obtain ⟨t, ht, hprog⟩ := busRead_of_admits (s := { s with hostProg := rest }) hr hop
      exact ⟨t, ht, by rwa [hprog]⟩
    | wr addr width data =>
      obtain ⟨t, ht, hprog⟩ := busWrite_of_admits (s := { s with hostProg := rest }) data hr hop
      exact ⟨t, ht, by rwa [hprog]⟩
    | repeatRd addr mask want =>
      obtain ⟨t, ht, hprog | hprog⟩ := pollRead_of_admits (s := { s with hostProg := rest }) mask want hr hop
      · exact ⟨t, ht, by rwa [hprog]⟩
      · exact ⟨t, ht, by rw [hprog]; exact List.Subset.refl _⟩

/-! Nothing disturbs the turns that are listed (70_reset_and_hazards.md R259). -/

theorem undisturbed_iff (s : State) :
    s.undisturbed = true ↔ Quiet s.cfg s ∧ ∀ op ∈ s.hostProg, s.cfg.admitsOp op = true := by
  simp [State.undisturbed, Quiet]

/-- A quiet state with the same parameters and no new item in the host's program is undisturbed as well. -/
theorem undisturbed_of_quiet {s t : State} (hs : s.undisturbed = true) (ht : Quiet s.cfg t)
    (hprog : t.hostProg ⊆ s.hostProg) : t.undisturbed = true := by
  have hcfg : t.cfg = s.cfg := ht.1
  rw [undisturbed_iff, hcfg]
  exact ⟨ht, fun op hop => ((undisturbed_iff s).1 hs).2 op (hprog hop)⟩

/-- In an undisturbed state the next listed turn is taken, whoever's it is, and the state stays undisturbed. -/
theorem step_of_undisturbed (s : State) (turn : Turn) (ts : List Turn) (hs : s.undisturbed = true)
    (hts : s.turns = turn :: ts) : ∃ t, step s = .next t ∧ t.undisturbed = true ∧ t.turns = ts := by
  obtain ⟨hquiet, hadmits⟩ := (undisturbed_iff s).1 hs
  obtain ⟨hturn, hquiet'⟩ := hquiet.next_turn hts
  have hr : State.inReset { s with turns := ts } = false := hquiet'.running
  have hstep := step_of_turn s turn ts hts
  cases turn with
  | host =>
    obtain ⟨t, ht, hprog⟩ := hostTurn_of_admitted { s with turns := ts } hr hadmits
    obtain ⟨-, -, hturns⟩ := hostTurn_keeps _ t ht
    exact ⟨t, hstep.trans ht, undisturbed_of_quiet hs (hquiet'.hostTurn ht) hprog, hturns⟩
  | engine =>
    rw [takeTurn, engineTurn_of_running _ hr] at hstep
    have hframe := engineStep_frame { s with turns := ts }
    refine ⟨_, hstep, undisturbed_of_quiet hs hquiet'.engineStep ?_, by rw [hframe]⟩
    rw [hframe]
    exact List.Subset.refl _
  | micro =>
    rw [takeTurn, microTurn_of_running _ hr] at hstep
    obtain ⟨_, _, _, _, _, _, _, hframe⟩ := microStep_frame { s with turns := ts }
    refine ⟨_, hstep, undisturbed_of_quiet hs hquiet'.microStep ?_, by rw [hframe]⟩
    rw [hframe]
    exact List.Subset.refl _
  | reset level => cases hturn

/-- An undisturbed state runs through its listed turns, one step for each. -/
theorem run_listed_turns (s : State) (hs : s.undisturbed = true) :
    ∃ t, Sys2Proof.core.run s.turns.length s = .next t ∧ t.undisturbed = true ∧ t.turns = [] := by
  generalize hts : s.turns = ts
  induction ts generalizing s with
  | nil => exact ⟨s, rfl, hs, hts⟩
  | cons turn ts ih =>
    obtain ⟨u, hstep, hu, hturns⟩ := step_of_undisturbed s turn ts hs hts
    obtain ⟨t, hrun, ht⟩ := ih u hu hturns
    exact ⟨t, (run_succ ts.length s u hstep).trans hrun, ht⟩

/-- With no turn listed a pending job completes (log 4). -/
theorem step_of_default_engine (s : State) (hr : s.inReset = false) (ht : s.turns = []) (hb : s.busy = true) :
    step s = .next (engineStep s) := by
  simp [step_of_no_turn s ht, defaultTurn, hr, hb]

/-- Settles O53: after the listed turns either no job is pending, or the engine moves by default and ends it. -/
theorem pendingJobCompletes : Obligations.PendingJobCompletes := by
  intro s _ hs
  obtain ⟨t, hrun, ht, hturns⟩ := run_listed_turns s hs
  cases hb : t.busy with
  | false => exact ⟨s.turns.length, t, Nat.le_succ _, hrun, hb⟩
  | true =>
    have hstep := step_of_default_engine t (quiet_of_undisturbed t ht).running hturns hb
    refine ⟨s.turns.length + 1, engineStep t, Nat.le_refl _, ?_, engineStep_busy t⟩
    rw [run_add _ 1 s t hrun]
    exact run_succ 0 t _ hstep

end Sys2Proof.Machine
end
